-- ==== Sys2Proof/Word.lean ====
section
/-! DEFINITION. The words of INETCSUM: bytes, 16-bit and 32-bit values (spec/00_scope.md R9). -/

namespace Sys2Proof

/-- A byte of BUF or an 8-bit header register. -/
abbrev Byte := BitVec 8

/-- A 16-bit value: IPID, a header field, a checksum. -/
abbrev Half := BitVec 16

/-- A 32-bit register or command word. -/
abbrev Word := BitVec 32

end Sys2Proof
end

