-- ==== Sys2Proof/Config.lean ====
section
/-! DEFINITION. The parameters of the block (spec/00_scope.md R7) and the free values the spec leaves open
(spec/20_memory.md R48, spec/70_reset_and_hazards.md R133). -/

namespace Sys2Proof

/-- The parameters of R7. They are data of the state (log entry 1), constant from reset on (R32), so a claim about
every state is a claim for every value of them. MAX_LEN and BUF_CAP are held as the 32-bit words that the registers
MAXLEN and BUFCAP read. -/
structure Params where
  /-- MAX_LEN: the largest buffer length a marshal command accepts. -/
  maxLen : Word
  /-- BUF_CAP: the size in bytes of the buffer memory. -/
  bufCap : Word
  /-- ICMP_ECHO_REPLY: the ICMP type value ICMP4_TO_RESPONSE writes. -/
  echoReply : Byte
  deriving DecidableEq, Repr

/-- The defaults of R7. -/
def Params.default : Params where
  maxLen := 65535
  bufCap := 65535
  echoReply := 0

/-- The constraints of R7: 24 <= MAX_LEN <= 65535 and MAX_LEN <= BUF_CAP <= 131074. -/
abbrev Params.wf (p : Params) : Prop :=
  24 ≤ p.maxLen.toNat ∧ p.maxLen.toNat ≤ 65535 ∧
    p.maxLen.toNat ≤ p.bufCap.toNat ∧ p.bufCap.toNat ≤ 131074

/-- FREE VALUE (log entry 4). The value of a BUF byte that nothing has written since power-on: unspecified, a draw
(R48). It depends on which power-on it is and on the address, so a byte keeps its value until it is written. -/
opaque Config.powerOnByte (powerCycle addr : Nat) : Byte

/-- FREE VALUE (log entry 5). Whether a BUF byte that an abandoned command may write holds its new value, unspecified
per byte (R133). It depends on which abandonment it is and on the address. -/
opaque Config.abandonedIsNew (draw addr : Nat) : Bool

end Sys2Proof
end

