-- ==== Sys2Proof/Machine/Bus.lean ====
section
/-! DEFINITION. What the world outside the block can do to it: the register map (spec/10_state.md R14, R15), bus
transactions (spec/30_encoding.md R70; spec/20_memory.md R42, R43), host-script lines (R68), and the inputs of the
machine (spec/20_memory.md R55, spec/70_reset_and_hazards.md R132, R136). -/

namespace Sys2Proof.Machine

/-- The sixteen registers of R14. -/
inductive Reg where
  | cmd | status | len | off | cnt | val | result | acc
  | proto | ipid | srcip | dstip | icmpType | icmpCode | maxlen | bufcap
  deriving DecidableEq, Repr

/-- The offset column of R14. -/
def Reg.offset (r : Reg) : Nat :=
  match r with
  | .cmd => 0x00
  | .status => 0x04
  | .len => 0x08
  | .off => 0x0C
  | .cnt => 0x10
  | .val => 0x14
  | .result => 0x18
  | .acc => 0x1C
  | .proto => 0x20
  | .ipid => 0x24
  | .srcip => 0x28
  | .dstip => 0x2C
  | .icmpType => 0x30
  | .icmpCode => 0x34
  | .maxlen => 0x38
  | .bufcap => 0x3C

/-- The register at an offset: one per aligned 32-bit word below 0x40 (R42), none elsewhere. -/
def Reg.atOffset (n : Nat) : Option Reg :=
  match n with
  | 0x00 => some .cmd
  | 0x04 => some .status
  | 0x08 => some .len
  | 0x0C => some .off
  | 0x10 => some .cnt
  | 0x14 => some .val
  | 0x18 => some .result
  | 0x1C => some .acc
  | 0x20 => some .proto
  | 0x24 => some .ipid
  | 0x28 => some .srcip
  | 0x2C => some .dstip
  | 0x30 => some .icmpType
  | 0x34 => some .icmpCode
  | 0x38 => some .maxlen
  | 0x3C => some .bufcap
  | _ => none

/-- Access types (R15). -/
inductive AccessType where
  | readWrite
  | readOnly
  | writeOnly
  deriving DecidableEq, Repr

/-- The access column of R14. -/
def Reg.accessType (r : Reg) : AccessType :=
  match r with
  | .cmd => .writeOnly
  | .status | .result | .acc | .maxlen | .bufcap => .readOnly
  | .len | .off | .cnt | .val => .readWrite
  | .proto | .ipid | .srcip | .dstip | .icmpType | .icmpCode => .readWrite

/-- The direction of a bus transaction (R70). -/
inductive Dir where
  | read
  | write
  deriving DecidableEq, Repr

/-- The address space of a bus transaction (R41, R70). -/
inductive Space where
  | reg
  | buf
  deriving DecidableEq, Repr

/-- The width of a bus transaction: R42 and R43 speak of 8-, 16- and 32-bit accesses. -/
inductive Width where
  | w8
  | w16
  | w32
  deriving DecidableEq, Repr

/-- A host access as the bus carries it (R70), legal or not. -/
structure Access where
  dir : Dir
  space : Space
  width : Width
  addr : Nat
  data : Word
  deriving DecidableEq, Repr

/-- A host access of a form R42 and R43 allow: the four host-script lines of R68. -/
inductive HostOp where
  /-- wr REG, v. -/
  | wr (r : Reg) (v : Word)
  /-- rd REG. -/
  | rd (r : Reg)
  /-- wb a, v. -/
  | wb (a : Nat) (b : Byte)
  /-- rb a. -/
  | rb (a : Nat)
  deriving DecidableEq, Repr

/-- Why a host access is a protocol violation (spec/70_reset_and_hazards.md R138). -/
inductive HostFault where
  /-- A register access that is not an aligned 32-bit access below 0x40 (R42). -/
  | registerForm
  /-- A BUF access that is not an 8-bit access below BUF_CAP (R43). -/
  | bufferForm
  /-- An access other than a STATUS read while BUSY = 1 (R138). -/
  | whileBusy
  deriving DecidableEq, Repr

/-- One thing that happens to the machine, in the order State.inputs gives. -/
inductive Input where
  /-- The host makes an access. -/
  | host (a : Access)
  /-- The block's turn: the command in flight runs, as one atomic step (R131). -/
  | block
  /-- The reset input is asserted, power held (R132, R133). -/
  | reset
  /-- Power-on (R132, R48). -/
  | powerOn
  deriving DecidableEq, Repr

/-- A register access of R42: 32 bits wide, at a register's offset. -/
def resolveReg (a : Access) : Except HostFault HostOp :=
  match a.width, Reg.atOffset a.addr, a.dir with
  | .w32, some r, .read => .ok (.rd r)
  | .w32, some r, .write => .ok (.wr r a.data)
  | _, _, _ => .error .registerForm

/-- A BUF access of R43: 8 bits wide, below BUF_CAP. -/
def resolveBuf (bufCap : Nat) (a : Access) : Except HostFault HostOp :=
  if a.width = .w8 ∧ a.addr < bufCap then
    match a.dir with
    | .read => .ok (.rb a.addr)
    | .write => .ok (.wb a.addr (a.data.setWidth 8))
  else .error .bufferForm

/-- The allowed access a bus transaction is, or the fault of a refused form (R42, R43). -/
def Access.resolve (bufCap : Nat) (a : Access) : Except HostFault HostOp :=
  match a.space with
  | .reg => resolveReg a
  | .buf => resolveBuf bufCap a

/-- The bus transaction of a host-script line (R70). -/
def HostOp.toAccess (op : HostOp) : Access :=
  match op with
  | .wr r v => ⟨.write, .reg, .w32, r.offset, v⟩
  | .rd r => ⟨.read, .reg, .w32, r.offset, 0⟩
  | .wb a b => ⟨.write, .buf, .w8, a, b.setWidth 32⟩
  | .rb a => ⟨.read, .buf, .w8, a, 0⟩

end Sys2Proof.Machine
end

