-- ==== Sys2Proof/Machine/Memory.lean ====
section
/-! DEFINITION. The buffer memory BUF as plain data (spec/20_memory.md R43, R48): the bytes something has written
since power-on, as (address, byte) pairs with strictly rising addresses. -/

namespace Sys2Proof.Machine

/-- The bytes of BUF written since power-on, sorted by address, no address twice. An address that is not listed has no
written byte (`Memory.lookup` is none there), so no entry can equal what an unlisted address holds. -/
abbrev Memory := List Host.Cell

/-- The written byte at an address, none where nothing has been written since power-on. -/
def Memory.lookup (m : Memory) (a : Nat) : Option Byte :=
  match m with
  | [] => none
  | (k, b) :: rest => if k = a then some b else Memory.lookup rest a

/-- Write one byte, keeping the canonical form. -/
def Memory.write (m : Memory) (a : Nat) (b : Byte) : Memory :=
  match m with
  | [] => [(a, b)]
  | (k, c) :: rest =>
    if a < k then (a, b) :: (k, c) :: rest
    else if a = k then (a, b) :: rest
    else (k, c) :: Memory.write rest a b

/-- The canonical form: addresses strictly rising. -/
abbrev Memory.wf (m : Memory) : Prop := m.Pairwise fun x y => x.1 < y.1

end Sys2Proof.Machine
end

