-- ==== Sys2Proof/Machine/State.lean ====
section
/-! DEFINITION. The state of the block as plain data (spec/10_state.md; INVENTORY.md, State), its stops, and the state
right after reset (R37). -/

namespace Sys2Proof.Machine

/-- The result codes of spec/60_exceptions.md R117. Codes 5-15 are never produced, so they have no constructor. -/
inductive ResultCode where
  /-- 0: the command completed. -/
  | ok
  /-- 1: LEN < HLEN (R116). -/
  | bufferTooSmall
  /-- 2: LEN > MAX_LEN (R116). -/
  | packetTooLarge
  /-- 3: LEN > BUF_CAP or OFF + n > LEN (R119). -/
  | rangeError
  /-- 4: the command word is not in the opcode map (R118). -/
  | illegalCmd
  deriving DecidableEq, Repr

/-- What stops the machine. -/
inductive Fault where
  /-- Raised by step in a state that has a host fault recorded: the spec gives no step there
  (spec/20_memory.md R42, spec/70_reset_and_hazards.md R138). Safe (log entry 6). -/
  | hostProtocolViolation (why : HostFault)
  deriving DecidableEq, Repr

/-- What the model gives no meaning to. -/
inductive Refusal where
  /-- Raised by exec for a command that has no meaning yet; no arm raises it in this model. Safe. -/
  | notModelled (mnemonic : String)
  deriving DecidableEq, Repr

/-- The state of one block and of what is about to happen to it. -/
@[ext]
structure State where
  /-- MAX_LEN, BUF_CAP (read as MAXLEN and BUFCAP, R32) and ICMP_ECHO_REPLY (R7). -/
  params : Params
  /-- STATUS.ERR (R18). -/
  err : ResultCode
  /-- The command word in flight (R34); STATUS.BUSY is 1 exactly when there is one (R18). -/
  inFlight : Option Word
  /-- LEN (R19). -/
  len : Word
  /-- OFF (R20). -/
  off : Word
  /-- CNT (R21). -/
  cnt : Word
  /-- VAL (R22). -/
  val : Word
  /-- RESULT (R23). -/
  result : Word
  /-- ACC (R24). -/
  acc : Word
  /-- PROTO (R26). -/
  proto : Byte
  /-- IPID (R27). -/
  ipid : Half
  /-- SRCIP (R28). -/
  srcip : Word
  /-- DSTIP (R29). -/
  dstip : Word
  /-- ICMP_TYPE (R30). -/
  icmpType : Byte
  /-- ICMP_CODE (R31). -/
  icmpCode : Byte
  /-- The bytes of BUF written since power-on (R43, R48). -/
  buf : Memory
  /-- The model's own: which power-on the unwritten bytes were drawn at (log entry 4). -/
  powerCycle : Nat
  /-- The model's own: how many commands a reset has abandoned (log entry 5). -/
  draws : Nat
  /-- The model's own: what happens next, oldest first (log entry 2). -/
  inputs : List Input
  /-- The model's own: what the block gave back to the host's last read (R136, log entry 7). -/
  readData : Option Word
  /-- The recorded host fault (R138). -/
  hostFault : Option HostFault
  deriving DecidableEq, Repr

/-- The machine right after reset with the given parameters (R37): every register 0, STATUS = 0, BUF unspecified. -/
def State.resetWith (p : Params) : State where
  params := p
  err := .ok
  inFlight := none
  len := 0
  off := 0
  cnt := 0
  val := 0
  result := 0
  acc := 0
  proto := 0
  ipid := 0
  srcip := 0
  dstip := 0
  icmpType := 0
  icmpCode := 0
  buf := []
  powerCycle := 0
  draws := 0
  inputs := []
  readData := none
  hostFault := none

/-- The machine right after reset, with the default parameters of R7. -/
def State.reset : State := State.resetWith Params.default

end Sys2Proof.Machine
end

