-- ==== Sys2Proof/Machine/Ops.lean ====
section
/-! DEFINITION. The named operations: BUF bytes, big-endian MemRead and MemWrite, and how a command ends
(spec/00_scope.md R10; spec/20_memory.md R43, R45, R48; spec/60_exceptions.md R121, R122). -/

namespace Sys2Proof.Machine

/-- BUF[a] (R43): the byte last written there, or the unspecified power-on byte (R48). -/
def State.readByte (s : State) (a : Nat) : Byte :=
  (s.buf.lookup a).getD (Config.powerOnByte s.powerCycle a)

/-- BUF[a] <- b. -/
def State.writeByte (s : State) (a : Nat) (b : Byte) : State :=
  { s with buf := s.buf.write a b }

/-- x[ACC] <- w. -/
def State.setAcc (s : State) (w : Word) : State := { s with acc := w }

/-- x[RESULT] <- w. -/
def State.setResult (s : State) (w : Word) : State := { s with result := w }

/-- MemRead(a, n) of R10 over a view of BUF: the big-endian value of bytes a..a+n-1 (R45). -/
def memRead (byte : Nat → Byte) (a n : Nat) : Word :=
  match n with
  | 0 => 0
  | k + 1 => ((byte a).setWidth 32 <<< (8 * k)) ||| memRead byte (a + 1) k

/-- MemWrite(a, n, v) of R10: byte a receives the most significant byte of the low 8n bits of v (R45). -/
def memWrite (a n : Nat) (v : Word) (s : State) : State :=
  match n with
  | 0 => s
  | k + 1 => memWrite (a + 1) k v (s.writeByte a (v.extractLsb' (8 * k) 8))

/-- The end of a command: ERR receives the code and BUSY falls to 0 (R18, R131). -/
def State.endCommand (s : State) (c : ResultCode) : State :=
  { s with err := c, inFlight := none }

/-- `raise <Error>` of R10, the block's only exceptional path: the command ends at once with the error's code and makes
no other change. Nothing is saved, no mode changes and control goes nowhere (R122); there is no return from it
(R123). -/
def raise (c : ResultCode) (s : State) : Host.Outcome State Fault Refusal :=
  .next (s.endCommand c)

/-- `complete` of R10: the command ends with ERR = 0. -/
def complete (s : State) : Host.Outcome State Fault Refusal :=
  .next (s.endCommand .ok)

end Sys2Proof.Machine
end

