-- ==== Sys2Proof/Machine/Flags.lean ====
section
/-! DEFINITION. The block's only flags, STATUS.BUSY and STATUS.ERR (spec/10_state.md R18, R36; spec/60_exceptions.md
R117). -/

namespace Sys2Proof.Machine

/-- The code column of R117. -/
def errCode (c : ResultCode) : BitVec 4 :=
  match c with
  | .ok => 0
  | .bufferTooSmall => 1
  | .packetTooLarge => 2
  | .rangeError => 3
  | .illegalCmd => 4

/-- STATUS.BUSY (R18): 1 while a command is in flight. -/
def State.busy (s : State) : Bool := s.inFlight.isSome

/-- STATUS as read: BUSY in bit 0, ERR in bits 7:4, every other bit 0 (R18). -/
def statusWord (s : State) : Word :=
  ((errCode s.err).setWidth 32 <<< 4) ||| (BitVec.ofBool s.busy).setWidth 32

end Sys2Proof.Machine
end

