-- ==== Sys2Proof/Machine/HostAccess.lean ====
section
/-! DEFINITION. What a host access does (spec/10_state.md R15-R17; spec/20_memory.md R42, R43, R52;
spec/70_reset_and_hazards.md R136, R138). -/

namespace Sys2Proof.Machine

/-- A register as a host read sees it (R14, R15, R16): a narrow field reads its unused upper bits as 0, CMD reads 0. -/
def regRead (r : Reg) (s : State) : Word :=
  match r with
  | .cmd => 0
  | .status => statusWord s
  | .len => s.len
  | .off => s.off
  | .cnt => s.cnt
  | .val => s.val
  | .result => s.result
  | .acc => s.acc
  | .proto => s.proto.setWidth 32
  | .ipid => s.ipid.setWidth 32
  | .srcip => s.srcip
  | .dstip => s.dstip
  | .icmpType => s.icmpType.setWidth 32
  | .icmpCode => s.icmpCode.setWidth 32
  | .maxlen => s.params.maxLen
  | .bufcap => s.params.bufCap

/-- A host write of a register: RW keeps the low bits of the field's width (R16), RO is ignored (R15), CMD puts the
word in flight, which is BUSY = 1 (R17, R18, R131). -/
def regWrite (r : Reg) (v : Word) (s : State) : State :=
  match r with
  | .cmd => { s with inFlight := some v }
  | .status => s
  | .len => { s with len := v }
  | .off => { s with off := v }
  | .cnt => { s with cnt := v }
  | .val => { s with val := v }
  | .result => s
  | .acc => s
  | .proto => { s with proto := v.setWidth 8 }
  | .ipid => { s with ipid := v.setWidth 16 }
  | .srcip => { s with srcip := v }
  | .dstip => { s with dstip := v }
  | .icmpType => { s with icmpType := v.setWidth 8 }
  | .icmpCode => { s with icmpCode := v.setWidth 8 }
  | .maxlen => s
  | .bufcap => s

/-- The effect of an allowed host access; what a read gives back is in readData. -/
def performOp (op : HostOp) (s : State) : State :=
  match op with
  | .wr r v => regWrite r v s
  | .rd r => { s with readData := some (regRead r s) }
  | .wb a b => s.writeByte a b
  | .rb a => { s with readData := some ((s.readByte a).setWidth 32) }

/-- The state is marked faulted and nothing else happens (R138). -/
def recordFault (f : HostFault) (s : State) : State := { s with hostFault := some f }

/-- While BUSY = 1 the only access the host may make is a STATUS read (R138). -/
def mayAccess (op : HostOp) (s : State) : Bool := !s.busy || decide (op = .rd .status)

/-- A host access: a refused form or an access while busy records a host fault (R42, R43, R138). -/
def hostAccess (a : Access) (s : State) : State :=
  match a.resolve s.params.bufCap.toNat with
  | .error f => recordFault f s
  | .ok op => if mayAccess op s then performOp op s else recordFault .whileBusy s

end Sys2Proof.Machine
end

