-- ==== Sys2Proof/Syntax.lean ====
section
/-! DEFINITION. The twelve commands of INETCSUM (spec/30_encoding.md R63, R71; spec/opcode_table.json), one
constructor per row. No command carries an operand: every operand is a register (R64). -/

namespace Sys2Proof

/-- The complete command set (R71). -/
inductive Instr where
  /-- CSUM, opcode 0x01 (R78). -/
  | csum
  /-- GET16, opcode 0x02 (R83). -/
  | get16
  /-- GET32, opcode 0x03 (R84). -/
  | get32
  /-- PUT16, opcode 0x04 (R85). -/
  | put16
  /-- PUT32, opcode 0x05 (R86). -/
  | put32
  /-- IP4_LEN, opcode 0x10 (R91). -/
  | ip4Len
  /-- IP4_MARSHAL, opcode 0x11 (R93). -/
  | ip4Marshal
  /-- IP4_MARSHAL_PSEUDO, opcode 0x12 (R97). -/
  | ip4MarshalPseudo
  /-- IP4_TO_RESPONSE, opcode 0x13 (R99). -/
  | ip4ToResponse
  /-- ICMP4_LEN, opcode 0x20 (R106). -/
  | icmp4Len
  /-- ICMP4_MARSHAL, opcode 0x21 (R108). -/
  | icmp4Marshal
  /-- ICMP4_TO_RESPONSE, opcode 0x22 (R111). -/
  | icmp4ToResponse
  deriving DecidableEq, Repr

end Sys2Proof
end

