-- ==== Sys2Proof/WellFormed.lean ====
section
/-! DEFINITION. Well-formed commands and command words (spec/30_encoding.md R61, R64, R65). -/

namespace Sys2Proof

/-- The reserved field RSV = w[31:8] of a command word is 0 (R61). -/
abbrev reservedClear (w : Word) : Bool := w.extractLsb' 8 24 == 0#24

/-- The opcode w[7:0] is one of the twelve assigned ones, given as the ranges of R65's complement:
0x01..0x05, 0x10..0x13, 0x20..0x22. -/
abbrev opcodeAssigned (w : Word) : Bool :=
  let op := (w.extractLsb' 0 8).toNat
  (0x01 ≤ op && op ≤ 0x05) || (0x10 ≤ op && op ≤ 0x13) || (0x20 ≤ op && op ≤ 0x22)

/-- A legal command word: everything R65 does not list as illegal. -/
abbrev legalWord (w : Word) : Bool := reservedClear w && opcodeAssigned w

/-- A command as syntax has no operand field (R64), so no constructor has a side condition. What can be ill formed is
a command word (`legalWord`). -/
def Instr.wf (i : Instr) : Bool :=
  match i with
  | .csum | .get16 | .get32 | .put16 | .put32 => true
  | .ip4Len | .ip4Marshal | .ip4MarshalPseudo | .ip4ToResponse => true
  | .icmp4Len | .icmp4Marshal | .icmp4ToResponse => true

end Sys2Proof
end

