-- ==== Sys2Proof/Decode.lean ====
section
/-! DEFINITION. Decoding a command word, total on all 2^32 words, and encoding a command (spec/30_encoding.md R61,
R62, R63, R72). -/

namespace Sys2Proof

/-- Why a word is no command. Both reasons are the one illegal behaviour of R62. -/
inductive Reject where
  /-- w[31:8] is not 0. -/
  | reservedBits
  /-- w[7:0] is not in the opcode map of R63. -/
  | unassignedOpcode
  deriving DecidableEq, Repr

/-- RSV, bits 31:8 of a command word (R61). -/
def rsvField (w : Word) : BitVec 24 := w.extractLsb' 8 24

/-- UNIT, bits 7:4 of a command word (R61). -/
def unitField (w : Word) : BitVec 4 := w.extractLsb' 4 4

/-- OP, bits 3:0 of a command word (R61). -/
def opField (w : Word) : BitVec 4 := w.extractLsb' 0 4

/-- UNIT 0 of R63: checksum and codec. -/
def decodeUnit0 (op : Nat) : Option Instr :=
  match op with
  | 1 => some .csum
  | 2 => some .get16
  | 3 => some .get32
  | 4 => some .put16
  | 5 => some .put32
  | _ => none

/-- UNIT 1 of R63: IPv4 header. -/
def decodeUnit1 (op : Nat) : Option Instr :=
  match op with
  | 0 => some .ip4Len
  | 1 => some .ip4Marshal
  | 2 => some .ip4MarshalPseudo
  | 3 => some .ip4ToResponse
  | _ => none

/-- UNIT 2 of R63: ICMPv4 header. -/
def decodeUnit2 (op : Nat) : Option Instr :=
  match op with
  | 0 => some .icmp4Len
  | 1 => some .icmp4Marshal
  | 2 => some .icmp4ToResponse
  | _ => none

/-- The opcode map of R63 by unit; units 3-15 are unassigned (R61). -/
def decodeFields (unit op : BitVec 4) : Option Instr :=
  match unit.toNat with
  | 0 => decodeUnit0 op.toNat
  | 1 => decodeUnit1 op.toNat
  | 2 => decodeUnit2 op.toNat
  | _ => none

/-- Decoding (R62, R72). -/
def decode (w : Word) : Except Reject Instr :=
  if rsvField w = 0#24 then
    match decodeFields (unitField w) (opField w) with
    | some i => .ok i
    | none => .error .unassignedOpcode
  else .error .reservedBits

/-- The opcode column of R63. -/
def opcode (i : Instr) : BitVec 8 :=
  match i with
  | .csum => 0x01
  | .get16 => 0x02
  | .get32 => 0x03
  | .put16 => 0x04
  | .put32 => 0x05
  | .ip4Len => 0x10
  | .ip4Marshal => 0x11
  | .ip4MarshalPseudo => 0x12
  | .ip4ToResponse => 0x13
  | .icmp4Len => 0x20
  | .icmp4Marshal => 0x21
  | .icmp4ToResponse => 0x22

/-- The command word of a command: its opcode with RSV = 0 (R61). -/
def encode (i : Instr) : Word := (opcode i).setWidth 32

/-- The command word of a table row's bits: nbits of them given, every bit above them 0. A command is one 32-bit word
(R67), written to CMD as a whole, so no byte order is involved (spec/20_memory.md R46). -/
def tableWord (nbits w : Nat) : Word := BitVec.ofNat 32 (w % 2 ^ nbits)

/-- What the decoder reads from a row of spec/opcode_table.json. -/
def decodeTableWord (nbits w : Nat) : Option Instr :=
  match decode (tableWord nbits w) with
  | .ok i => some i
  | .error _ => none

end Sys2Proof
end

