-- ==== Sys2Proof/Machine/Operands.lean ====
section
/-! DEFINITION. How a command's operands are checked before it does anything (spec/41_codec.md R87;
spec/60_exceptions.md R116, R119). Every operand is a register used at its width (spec/30_encoding.md R64). -/

namespace Sys2Proof.Machine

/-- The range BUF[OFF .. OFF+n-1] lies in the buffer and the buffer in BUF, evaluated on naturals without wrap: InRange
of R87 for the codec (n = 2 or 4), the check of R78 for CSUM (n = CNT). -/
def inRange (n : Nat) (s : State) : Bool :=
  s.len.toNat ≤ s.params.bufCap.toNat && s.off.toNat + n ≤ s.len.toNat

/-- The length checks of a marshal command whose header has hlen bytes, in the order of R116. -/
def lengthError (hlen : Nat) (s : State) : Option ResultCode :=
  if s.len.toNat < hlen then some .bufferTooSmall
  else if s.params.maxLen.toNat < s.len.toNat then some .packetTooLarge
  else none

end Sys2Proof.Machine
end

