-- ==== Sys2Proof/Machine/Codec.lean ====
section
/-! DEFINITION. The big-endian codec: GET16, GET32, PUT16, PUT32 (spec/41_codec.md R83-R86). -/

namespace Sys2Proof.Machine

/-- Read the n-byte value at OFF into RESULT, or end with RANGE_ERROR. -/
def getBytes (n : Nat) (s : State) : Host.Outcome State Fault Refusal :=
  if inRange n s then complete (s.setResult (memRead s.readByte s.off.toNat n))
  else raise .rangeError s

/-- Write the low n bytes of VAL at OFF, or end with RANGE_ERROR and write no byte. -/
def putBytes (n : Nat) (s : State) : Host.Outcome State Fault Refusal :=
  if inRange n s then complete (memWrite s.off.toNat n s.val s)
  else raise .rangeError s

/-- GET16 (R83). -/
def execGet16 (s : State) : Host.Outcome State Fault Refusal := getBytes 2 s

/-- GET32 (R84). -/
def execGet32 (s : State) : Host.Outcome State Fault Refusal := getBytes 4 s

/-- PUT16 (R85): VAL[31:16] is ignored. -/
def execPut16 (s : State) : Host.Outcome State Fault Refusal := putBytes 2 s

/-- PUT32 (R86). -/
def execPut32 (s : State) : Host.Outcome State Fault Refusal := putBytes 4 s

end Sys2Proof.Machine
end

