-- ==== Sys2Proof/Machine/Accumulator.lean ====
section
/-! DEFINITION. The checksum accumulator's pure functions (spec/40_checksum.md R73, R74, R75). -/

namespace Sys2Proof.Machine

/-- The loop of InetSum (R73) with k bytes left from address i and the sum so far: big-endian 16-bit words in address
order, an odd trailing byte padded with a low zero byte, additions mod 2^32. -/
def inetSumLoop (byte : Nat → Byte) (k i : Nat) (acc : Word) : Word :=
  match k with
  | 0 => acc
  | 1 => acc + ((byte i).setWidth 32 <<< 8)
  | k + 2 => inetSumLoop byte k (i + 2) (acc + memRead byte i 2)

/-- InetSum(a, n) of R73. -/
def inetSum (byte : Nat → Byte) (a n : Nat) : Word := inetSumLoop byte n a 0

/-- One end-around carry: acc[31:16] + acc[15:0] (R74). -/
def foldStep (acc : Word) : Word :=
  (acc.extractLsb' 16 16).setWidth 32 + (acc.extractLsb' 0 16).setWidth 32

/-- The loop of Fold (R74) with a bound on its iterations. -/
def foldLoop (fuel : Nat) (acc : Word) : Word :=
  match fuel with
  | 0 => acc
  | fuel + 1 => if acc.extractLsb' 16 16 = 0#16 then acc else foldLoop fuel (foldStep acc)

/-- Fold(acc) of R74. The loop ends after at most two iterations (R77), so a bound of two loses nothing. -/
def fold (acc : Word) : Word := foldLoop 2 acc

/-- The one's complement ~f[15:0] of a folded sum (R75). -/
def complement16 (f : Word) : Half := ~~~(f.setWidth 16)

/-- Checksum(a, n) of R75. -/
def checksum (byte : Nat → Byte) (a n : Nat) : Half := complement16 (fold (inetSum byte a n))

end Sys2Proof.Machine
end

