-- ==== Sys2Proof/Machine/Csum.lean ====
section
/-! DEFINITION. The command CSUM (spec/40_checksum.md R78). -/

namespace Sys2Proof.Machine

/-- CSUM (R78): the Internet checksum of BUF[OFF .. OFF+CNT-1] into RESULT, its folded sum into ACC. -/
def execCsum (s : State) : Host.Outcome State Fault Refusal :=
  if inRange s.cnt.toNat s then
    let f := fold (inetSum s.readByte s.off.toNat s.cnt.toNat)
    complete ((s.setAcc f).setResult ((complement16 f).setWidth 32))
  else raise .rangeError s

end Sys2Proof.Machine
end

