-- ==== Sys2Proof/Machine/Ip4.lean ====
section
/-! DEFINITION. The IPv4 header marshaler: IP4_LEN, IP4_MARSHAL, IP4_MARSHAL_PSEUDO, IP4_TO_RESPONSE
(spec/42_ip4.md). -/

namespace Sys2Proof.Machine

/-- The writes of IP4Fill(p) that come before the sum (R93): every header byte, the checksum field 0 (R94). -/
def ip4Fields (p : Byte) (s : State) : State :=
  s |> memWrite 0 1 0x45
    |> memWrite 1 1 0x00
    |> memWrite 2 2 s.len
    |> memWrite 4 2 (s.ipid.setWidth 32)
    |> memWrite 6 2 0x0000
    |> memWrite 8 1 64
    |> memWrite 9 1 (p.setWidth 32)
    |> memWrite 10 2 0x0000
    |> memWrite 12 4 s.srcip
    |> memWrite 16 4 s.dstip

/-- Sum BUF[0 .. n-1], keep the folded sum in ACC and write its complement at the checksum field (R93, R108). -/
def embedChecksum (n field : Nat) (s : State) : State :=
  let f := fold (inetSum s.readByte 0 n)
  memWrite field 2 ((complement16 f).setWidth 32) (s.setAcc f)

/-- IP4Fill(p) of R93: the 20 header bytes, the checksum over the final bytes 0..19 (R94, conflict C2). -/
def ip4Fill (p : Byte) (s : State) : State := embedChecksum 20 10 (ip4Fields p s)

/-- The writes of R97: the pseudo-header of R96. -/
def ip4Pseudo (s : State) : State :=
  s |> memWrite 0 4 0x00000000
    |> memWrite 4 4 0x00000000
    |> memWrite 8 4 s.srcip
    |> memWrite 12 4 s.dstip
    |> memWrite 16 1 0x00
    |> memWrite 17 1 (s.proto.setWidth 32)
    |> memWrite 18 2 (s.len - 20)

/-- Swap SRCIP and DSTIP and complement IPID (R99). -/
def swapToResponse (s : State) : State :=
  { s with srcip := s.dstip, dstip := s.srcip, ipid := ~~~s.ipid }

/-- IP4_LEN (R91). -/
def execIp4Len (s : State) : Host.Outcome State Fault Refusal := complete (s.setResult 20)

/-- IP4_MARSHAL (R93): the length checks before any write (R116). -/
def execIp4Marshal (s : State) : Host.Outcome State Fault Refusal :=
  match lengthError 20 s with
  | some c => raise c s
  | none => complete (ip4Fill s.proto s)

/-- IP4_MARSHAL_PSEUDO (R97). -/
def execIp4MarshalPseudo (s : State) : Host.Outcome State Fault Refusal :=
  match lengthError 20 s with
  | some c => raise c s
  | none => complete (ip4Pseudo s)

/-- IP4_TO_RESPONSE (R99). -/
def execIp4ToResponse (s : State) : Host.Outcome State Fault Refusal := complete (swapToResponse s)

end Sys2Proof.Machine
end

