-- ==== Sys2Proof/Machine/Icmp4.lean ====
section
/-! DEFINITION. The ICMPv4 header marshaler: ICMP4_LEN, ICMP4_MARSHAL, ICMP4_TO_RESPONSE (spec/43_icmp4.md). -/

namespace Sys2Proof.Machine

/-- The writes of R108 that come before the whole-buffer sum, in its order: type, code, the finished IPv4 header with
the protocol forced to 1, the ICMP checksum field 0 (R109). -/
def icmp4Fields (s : State) : State :=
  s |> memWrite 20 1 (s.icmpType.setWidth 32)
    |> memWrite 21 1 (s.icmpCode.setWidth 32)
    |> ip4Fill 1
    |> memWrite 22 2 0x0000

/-- ICMP4_LEN (R106). -/
def execIcmp4Len (s : State) : Host.Outcome State Fault Refusal := complete (s.setResult 24)

/-- ICMP4_MARSHAL (R108): the length threshold is 24 (conflict C1), PROTO is neither read nor written (conflict C3). -/
def execIcmp4Marshal (s : State) : Host.Outcome State Fault Refusal :=
  match lengthError 24 s with
  | some c => raise c s
  | none => complete (embedChecksum s.len.toNat 22 (icmp4Fields s))

/-- ICMP4_TO_RESPONSE (R111): unconditional, the type is not checked (R112). -/
def execIcmp4ToResponse (s : State) : Host.Outcome State Fault Refusal :=
  complete (swapToResponse { s with icmpType := s.params.echoReply, icmpCode := 0 })

end Sys2Proof.Machine
end

