-- ==== Sys2Proof/Machine/Dispatch.lean ====
section
/-! DEFINITION. One arm per command: each calls that command's meaning. -/

namespace Sys2Proof.Machine

def exec (i : Instr) (s : State) : Host.Outcome State Fault Refusal :=
  match i with
  | .csum => Sys2Proof.Machine.execCsum s
  | .get16 => Sys2Proof.Machine.execGet16 s
  | .get32 => Sys2Proof.Machine.execGet32 s
  | .put16 => Sys2Proof.Machine.execPut16 s
  | .put32 => Sys2Proof.Machine.execPut32 s
  | .ip4Len => Sys2Proof.Machine.execIp4Len s
  | .ip4Marshal => Sys2Proof.Machine.execIp4Marshal s
  | .ip4MarshalPseudo => Sys2Proof.Machine.execIp4MarshalPseudo s
  | .ip4ToResponse => Sys2Proof.Machine.execIp4ToResponse s
  | .icmp4Len => Sys2Proof.Machine.execIcmp4Len s
  | .icmp4Marshal => Sys2Proof.Machine.execIcmp4Marshal s
  | .icmp4ToResponse => Sys2Proof.Machine.execIcmp4ToResponse s

end Sys2Proof.Machine
end

