-- ==== Sys2Proof/Machine/Command.lean ====
section
/-! DEFINITION. The block's turn: the command in flight runs (spec/70_reset_and_hazards.md R131; spec/30_encoding.md
R62). -/

namespace Sys2Proof.Machine

/-- Run a command word: the command it encodes, or ILLEGAL_CMD (R62, R118). Decode is checked first (R120). -/
def runWord (w : Word) (s : State) : Host.Outcome State Fault Refusal :=
  match decode w with
  | .ok i => exec i s
  | .error _ => raise .illegalCmd s

/-- The block's turn: the command in flight runs as a whole; an idle block keeps everything (R129). -/
def blockTurn (s : State) : Host.Outcome State Fault Refusal :=
  match s.inFlight with
  | some w => runWord w s
  | none => .next s

end Sys2Proof.Machine
end

