-- ==== Sys2Proof/Machine/Reset.lean ====
section
/-! DEFINITION. The reset input and power-on (spec/70_reset_and_hazards.md R132, R133; spec/20_memory.md R44, R48). -/

namespace Sys2Proof.Machine

/-- Every register at its reset value (R37); BUF and what is outside the block stay. -/
def resetRegs (s : State) : State :=
  { State.resetWith s.params with
    buf := s.buf
    powerCycle := s.powerCycle
    draws := s.draws
    inputs := s.inputs
    readData := s.readData
    hostFault := s.hostFault }

/-- The BUF bytes a command may write (R44, R33). -/
def mayWrite (i : Instr) (s : State) : List Nat :=
  match i with
  | .put16 => (List.range 2).map (s.off.toNat + ·)
  | .put32 => (List.range 4).map (s.off.toNat + ·)
  | .ip4Marshal | .ip4MarshalPseudo => List.range 20
  | .icmp4Marshal => List.range 24
  | .csum | .get16 | .get32 => []
  | .ip4Len | .ip4ToResponse | .icmp4Len | .icmp4ToResponse => []

/-- Copy the written byte of one address from one memory to another. -/
def copyByte (new : Memory) (m : Memory) (a : Nat) : Memory :=
  match new.lookup a with
  | some b => m.write a b
  | none => m

/-- BUF after a command is abandoned (R133): each byte the command may write holds its old or its new value, which one
is a free choice per byte. -/
def abandonedBuf (i : Instr) (s : State) : Memory :=
  match exec i s with
  | .next t => ((mayWrite i s).filter (Config.abandonedIsNew s.draws)).foldl (copyByte t.buf) s.buf
  | .fault _ => s.buf
  | .refused _ => s.buf

/-- BUF after the command word in flight is abandoned; a word that is no command writes nothing (R118). -/
def abandonWord (w : Word) (s : State) : State :=
  match decode w with
  | .ok i => { s with buf := abandonedBuf i s, draws := s.draws + 1 }
  | .error _ => s

/-- The reset input (R132): registers take their reset values and BUF is not written, except that a command in flight
is abandoned (R133). -/
def resetInput (s : State) : State :=
  match s.inFlight with
  | some w => resetRegs (abandonWord w s)
  | none => resetRegs s

/-- Power-on (R132, R48): the reset values, and every BUF byte unspecified anew. -/
def powerOnInput (s : State) : State :=
  { resetRegs s with buf := [], powerCycle := s.powerCycle + 1 }

end Sys2Proof.Machine
end

