-- ==== Sys2Proof/Machine/Step.lean ====
section
/-! DEFINITION. One step of the machine: the next thing State.inputs says happens (spec/20_memory.md R55,
spec/70_reset_and_hazards.md R131, R138). -/

namespace Sys2Proof.Machine

/-- One input, already taken off the list. -/
def handle (e : Input) (s : State) : Host.Outcome State Fault Refusal :=
  match e with
  | .host a => .next (hostAccess a s)
  | .block => blockTurn s
  | .reset => .next (resetInput s)
  | .powerOn => .next (powerOnInput s)

/-- One step. A faulted state has none (R138). With nothing left to happen outside, the block has its turn: a command
in flight always ends (R131), and an idle block keeps everything (R129). -/
def step (s : State) : Host.Outcome State Fault Refusal :=
  match s.hostFault with
  | some f => .fault (.hostProtocolViolation f)
  | none =>
    match s.inputs with
    | [] => blockTurn s
    | e :: rest => handle e { s with inputs := rest }

/-- s with the command of a table row in flight and the block's turn next, no host fault recorded, so that the very
next step runs it (log entry 3). This is the state right after a host write of that word to CMD. -/
def State.withFetchWord (s : State) (nbits w : Nat) : State :=
  { s with inFlight := some (tableWord nbits w), inputs := .block :: s.inputs, hostFault := none }

end Sys2Proof.Machine
end

