-- ==== Sys2Proof/Machine/Script.lean ====
section
/-! DEFINITION. Host scripts as inputs of the machine (spec/30_encoding.md R68, R69, R70). -/

namespace Sys2Proof.Machine

/-- One host-script line as an input: its bus transaction (R70). -/
def line (op : HostOp) : Input := .host op.toAccess

/-- `cmd M` (R69), followed by the block's turn: the atomic model of R131. -/
def cmdLine (i : Instr) : List Input := [line (.wr .cmd (encode i)), .block]

/-- `wait` (R69): under the atomic model exactly one STATUS read. -/
def waitLine : List Input := [line (.rd .status)]

/-- `do M` (R69). -/
def doLine (i : Instr) : List Input := cmdLine i ++ waitLine

/-- `wbytes a, [b0, b1, ...]` (R69). -/
def wbytesLine (a : Nat) (bs : List Byte) : List Input :=
  match bs with
  | [] => []
  | b :: rest => line (.wb a b) :: wbytesLine (a + 1) rest

/-- `rbytes a, n` (R69). -/
def rbytesLine (a n : Nat) : List Input := (List.range n).map fun k => line (.rb (a + k))

end Sys2Proof.Machine
end

