-- ==== Sys2Proof/Safety.lean ====
section
/-! DEFINITION. What counts as a safe run, the invariant of the state, and the spec's own vocabulary that claims are
stated in: sums of big-endian words as plain naturals and the wire layouts byte by byte (spec/40_checksum.md R76;
spec/42_ip4.md R92, R96). Nothing here is used by the machine. -/

namespace Sys2Proof.Machine

/-- No host fault recorded: the premise R138 and R145 put on every claim about a run. -/
abbrev State.safe (s : State) : Prop := s.hostFault = none

/-- Safe and BUSY = 0: the host may make any access (R136). -/
abbrev State.ready (s : State) : Prop := s.hostFault = none ∧ s.inFlight = none

/-- The block moves next: nothing is left to happen outside, or the next input is the block's turn (R55). -/
abbrev State.blockMovesNext (s : State) : Prop := s.inputs = [] ∨ s.inputs.head? = some .block

/-- The invariant every step keeps: the parameters meet R7, BUF is in its canonical form and lists only addresses
below BUF_CAP (R43), and ACC holds a folded sum (R24). -/
abbrev State.Inv (s : State) : Prop :=
  s.params.wf ∧ s.buf.wf ∧ (∀ c ∈ s.buf, c.1 < s.params.bufCap.toNat) ∧ s.acc.toNat ≤ 0xFFFF

/-- Word j of the n-byte range at a, as a natural: byte a+2j high, byte a+2j+1 low, 0 where the range has ended. -/
def wordAt (byte : Nat → Byte) (a n j : Nat) : Nat :=
  (byte (a + 2 * j)).toNat * 256 + if 2 * j + 1 < n then (byte (a + 2 * j + 1)).toNat else 0

/-- The plain natural sum of the ceil(n/2) words of a range (R82). -/
def wordSum (byte : Nat → Byte) (a n : Nat) : Nat :=
  ((List.range ((n + 1) / 2)).map (wordAt byte a n)).sum

/-- The closed form of Fold (R76). -/
def foldedSum (total : Nat) : Nat := if total = 0 then 0 else 1 + (total - 1) % 0xFFFF

/-- A 16-bit value's two bytes, most significant first (R45). -/
def beBytes16 (v : Half) : List Byte := [v.extractLsb' 8 8, v.extractLsb' 0 8]

/-- A 32-bit value's four bytes, most significant first (R45). -/
def beBytes32 (v : Word) : List Byte :=
  [v.extractLsb' 24 8, v.extractLsb' 16 8, v.extractLsb' 8 8, v.extractLsb' 0 8]

/-- The n bytes of BUF from address a, lowest address first. -/
def bytesAt (s : State) (a n : Nat) : List Byte := (List.range n).map fun k => s.readByte (a + k)

/-- The sum of the ten words of an IPv4 header with its checksum field 0, read off the layout of R92. -/
def ip4HeaderSum (len ipid : Half) (proto : Byte) (src dst : Word) : Nat :=
  0x4500 + len.toNat + ipid.toNat + (0x4000 + proto.toNat) + src.toNat / 0x10000 + src.toNat % 0x10000 +
    dst.toNat / 0x10000 + dst.toNat % 0x10000

/-- The header checksum as a number: 0xFFFF minus the folded sum. -/
def ip4HeaderChecksum (len ipid : Half) (proto : Byte) (src dst : Word) : Nat :=
  0xFFFF - foldedSum (ip4HeaderSum len ipid proto src dst)

/-- The 20 bytes of the IPv4 header, row by row of R92. -/
def ip4Layout (len ipid : Half) (proto : Byte) (check : Half) (src dst : Word) : List Byte :=
  [0x45, 0x00] ++ beBytes16 len ++ beBytes16 ipid ++ [0x00, 0x00] ++ [0x40] ++ [proto] ++ beBytes16 check ++
    beBytes32 src ++ beBytes32 dst

/-- The 20 bytes of the pseudo-header, row by row of R96. -/
def pseudoLayout (proto : Byte) (upperLen : Half) (src dst : Word) : List Byte :=
  [0, 0, 0, 0, 0, 0, 0, 0] ++ beBytes32 src ++ beBytes32 dst ++ [0x00] ++ [proto] ++ beBytes16 upperLen

/-- The IPv4 header BUF[0..19] that IP4Fill(p) leaves for the registers of s, its checksum included (R92, R93). -/
def ip4HeaderOf (s : State) (p : Byte) : List Byte :=
  ip4Layout (s.len.setWidth 16) s.ipid p
    (BitVec.ofNat 16 (ip4HeaderChecksum (s.len.setWidth 16) s.ipid p s.srcip s.dstip)) s.srcip s.dstip

/-- The sum of every word of the buffer that ICMP4_MARSHAL folds into ACC for the registers and payload of s: the
finished IPv4 header, type and code, the checksum field 0, and the host's bytes 24..LEN-1 (R107, R108). -/
def icmp4BufferSum (s : State) : Nat :=
  ip4HeaderSum (s.len.setWidth 16) s.ipid 1 s.srcip s.dstip +
    ip4HeaderChecksum (s.len.setWidth 16) s.ipid 1 s.srcip s.dstip +
    (s.icmpType.toNat * 256 + s.icmpCode.toNat) + wordSum s.readByte 24 (s.len.toNat - 24)

/-- The code R119 gives for a range of n bytes at OFF. -/
def rangeCode (n : Nat) (s : State) : ResultCode :=
  if s.params.bufCap.toNat < s.len.toNat ∨ s.len.toNat < s.off.toNat + n then .rangeError else .ok

/-- The code R116 gives for a header of hlen bytes. -/
def lengthCode (hlen : Nat) (s : State) : ResultCode :=
  if s.len.toNat < hlen then .bufferTooSmall
  else if s.params.maxLen.toNat < s.len.toNat then .packetTooLarge
  else .ok

/-- The code each command ends with, by the causes of R117. -/
def expectedErr (i : Instr) (s : State) : ResultCode :=
  match i with
  | .csum => rangeCode s.cnt.toNat s
  | .get16 | .put16 => rangeCode 2 s
  | .get32 | .put32 => rangeCode 4 s
  | .ip4Marshal | .ip4MarshalPseudo => lengthCode 20 s
  | .icmp4Marshal => lengthCode 24 s
  | .ip4Len | .ip4ToResponse | .icmp4Len | .icmp4ToResponse => .ok

/-- The width of a register's field: PROTO, ICMP_TYPE, ICMP_CODE 8 bits, IPID 16 bits, the others 32 (R14, R16). -/
def fieldWidth (r : Reg) : Nat :=
  match r with
  | .proto | .icmpType | .icmpCode => 8
  | .ipid => 16
  | .cmd | .status | .len | .off | .cnt | .val | .result | .acc => 32
  | .srcip | .dstip | .maxlen | .bufcap => 32

end Sys2Proof.Machine
end

