-- ==== Sys2Proof/Certificates/Slice0/Obligations.lean ====
section
/-! DEFINITION. The statements for the provers, from the numbered rules of the spec. `{ s with … }` equations say what
a command changes and that it changes nothing else: every register, the recorded fault, the inputs and what the host
last read are fields of the state. `inputs` and `readData` are the model's own fields (log entries 2 and 7), and
`inFlight` is how the state holds STATUS.BUSY. -/

open Sys2Proof Sys2Proof.Machine

/-! ## Encoding -/

/-- R63: the word of each of the twelve commands, written out in the bits of R61. -/
def Obligations.OpcodeMapWordsDecode : Prop :=
  decode 0b00000000000000000000000000000001 = .ok .csum ∧
  decode 0b00000000000000000000000000000010 = .ok .get16 ∧
  decode 0b00000000000000000000000000000011 = .ok .get32 ∧
  decode 0b00000000000000000000000000000100 = .ok .put16 ∧
  decode 0b00000000000000000000000000000101 = .ok .put32 ∧
  decode 0b00000000000000000000000000010000 = .ok .ip4Len ∧
  decode 0b00000000000000000000000000010001 = .ok .ip4Marshal ∧
  decode 0b00000000000000000000000000010010 = .ok .ip4MarshalPseudo ∧
  decode 0b00000000000000000000000000010011 = .ok .ip4ToResponse ∧
  decode 0b00000000000000000000000000100000 = .ok .icmp4Len ∧
  decode 0b00000000000000000000000000100001 = .ok .icmp4Marshal ∧
  decode 0b00000000000000000000000000100010 = .ok .icmp4ToResponse

/-- R72: decoding an encoded command gives it back, only its own word decodes to a command, over all 2^32 words, and
the words that decode are those with RSV = 0 and an opcode of R63. -/
def Obligations.DecodeAndEncodeAgree : Prop :=
  (∀ i : Instr, decode (encode i) = .ok i) ∧
  (∀ (w : Word) (i : Instr), decode w = .ok i → w = encode i) ∧
  (∀ w : Word, (∃ i, decode w = .ok i) ↔ w.toNat / 2 ^ 8 = 0 ∧
    w.toNat % 2 ^ 8 ∈ [0x01, 0x02, 0x03, 0x04, 0x05, 0x10, 0x11, 0x12, 0x13, 0x20, 0x21, 0x22])

/-- R65: the illegal words are exactly those with a reserved bit set and the 244 unassigned opcodes, and all of them
behave identically: ILLEGAL_CMD and nothing else, in every state. -/
def Obligations.IllegalWordsAreTheComplement : Prop :=
  ∀ w : Word,
    ((∃ r, decode w = .error r) ↔
      w.toNat / 2 ^ 8 ≠ 0 ∨ w.toNat % 2 ^ 8 = 0x00 ∨ (0x06 ≤ w.toNat % 2 ^ 8 ∧ w.toNat % 2 ^ 8 ≤ 0x0F) ∨
        (0x14 ≤ w.toNat % 2 ^ 8 ∧ w.toNat % 2 ^ 8 ≤ 0x1F) ∨ 0x23 ≤ w.toNat % 2 ^ 8) ∧
    ((∃ r, decode w = .error r) → ∀ s : State, runWord w s = .next { s with err := .illegalCmd, inFlight := none })

/-- R70: the bus transaction of every allowed host-script line resolves to that line. -/
def Obligations.ScriptLinesAreTransactions : Prop :=
  (∀ (cap : Nat) (r : Reg) (v : Word), (HostOp.wr r v).toAccess.resolve cap = .ok (.wr r v)) ∧
  (∀ (cap : Nat) (r : Reg), (HostOp.rd r).toAccess.resolve cap = .ok (.rd r)) ∧
  (∀ (cap a : Nat) (b : Byte), a < cap → (HostOp.wb a b).toAccess.resolve cap = .ok (.wb a b)) ∧
  (∀ cap a : Nat, a < cap → (HostOp.rb a).toAccess.resolve cap = .ok (.rb a))

/-- R13, R42: the sixteen registers stand one per aligned 32-bit word below 0x40, none at another offset, no two at
one. -/
def Obligations.RegisterOffsetsAreAlignedWords : Prop :=
  (∀ (n : Nat) (r : Reg), Reg.atOffset n = some r ↔ n = r.offset) ∧
  (∀ n : Nat, (∃ r, Reg.atOffset n = some r) ↔ n % 4 = 0 ∧ n < 0x40)

/-! ## The step -/

/-- When the block moves and the word in flight decodes to i, the step is exec of i with the block's turn taken off the
inputs. -/
def Obligations.StepRunsDecodedCommand : Prop :=
  ∀ (s : State) (w : Word) (i : Instr), s.safe → s.blockMovesNext → s.inFlight = some w → decode w = .ok i →
    step s = exec i { s with inputs := s.inputs.tail }

/-- R118: a word that is no command ends at once with ERR = 4 and changes nothing else. -/
def Obligations.IllegalWordChangesOnlyErr : Prop :=
  ∀ (s : State) (w : Word), s.safe → s.blockMovesNext → s.inFlight = some w →
    (w.toNat / 2 ^ 8 ≠ 0 ∨
      w.toNat % 2 ^ 8 ∉ [0x01, 0x02, 0x03, 0x04, 0x05, 0x10, 0x11, 0x12, 0x13, 0x20, 0x21, 0x22]) →
    step s = .next { s with inputs := s.inputs.tail, err := .illegalCmd, inFlight := none }

/-- R17: a host write of any word to CMD while BUSY = 0 puts that command in flight and changes nothing else; while
BUSY = 1 it records a host fault. That the command runs at a later turn is the model's choice (log entry 2). -/
def Obligations.CmdWriteStartsTheWord : Prop :=
  ∀ (s : State) (w : Word) (rest : List Input), s.safe → s.inputs = .host ⟨.write, .reg, .w32, 0x00, w⟩ :: rest →
    (s.inFlight = none → step s = .next { s with inputs := rest, inFlight := some w }) ∧
    (s.inFlight ≠ none → ∃ f, step s = .next { s with inputs := rest, hostFault := some f })

/-- R131, R55: from an idle block, the CMD write of a command and the block's turn after it make one atomic transition:
BUSY is 1 between them, and the command's whole effect on the state the host left is there after them. That the write
and the turn are two steps is the model's choice (log entry 2). -/
def Obligations.CommandIsOneTransition : Prop :=
  ∀ (s : State) (i : Instr) (rest : List Input), s.ready →
    s.inputs = .host ⟨.write, .reg, .w32, 0x00, encode i⟩ :: .block :: rest →
    ∃ s1 t, step s = .next s1 ∧ s1.busy = true ∧ step s1 = .next t ∧ t.busy = false ∧
      exec i { s with inputs := rest } = .next t

/-- R122, R131: every command ends, in every state: it answers a next state with BUSY = 0, and what is not the block's
(the parameters, the inputs, the host's last read, the recorded fault, the model's counters) stays. -/
def Obligations.EveryCommandEnds : Prop :=
  ∀ (i : Instr) (s : State), ∃ t, exec i s = .next t ∧ t.busy = false ∧ t.params = s.params ∧
    t.inputs = s.inputs ∧ t.readData = s.readData ∧ t.hostFault = s.hostFault ∧ t.powerCycle = s.powerCycle ∧
    t.draws = s.draws

/-- R129: an idle block keeps every register and BUF byte until the next access or reset. -/
def Obligations.IdleBlockKeepsEverything : Prop :=
  ∀ s : State, s.ready → s.blockMovesNext → step s = .next { s with inputs := s.inputs.tail }

/-! ## Checksum accumulator -/

/-- R73, R82: InetSum is the sum of the range's big-endian words mod 2^32, which is the plain sum up to 131074
bytes. -/
def Obligations.InetSumIsTheWordSum : Prop :=
  ∀ (byte : Nat → Byte) (a n : Nat), (inetSum byte a n).toNat = wordSum byte a n % 2 ^ 32 ∧
    (n ≤ 131074 → (inetSum byte a n).toNat = wordSum byte a n)

/-- R74, R77: Fold is the carry loop: it keeps a sum that fits 16 bits and otherwise goes on from the sum of the two
halves, and two such steps always reach 16 bits. -/
def Obligations.FoldIsTheCarryLoop : Prop :=
  ∀ acc : Word,
    (acc.toNat ≤ 0xFFFF → fold acc = acc) ∧
    (0xFFFF < acc.toNat → fold acc = fold (BitVec.ofNat 32 (acc.toNat / 0x10000 + acc.toNat % 0x10000))) ∧
    acc.toNat / 0x10000 + acc.toNat % 0x10000 ≤ 0x1FFFE ∧
    (acc.toNat ≤ 0x1FFFE → acc.toNat / 0x10000 + acc.toNat % 0x10000 ≤ 0xFFFF) ∧
    (fold acc).toNat ≤ 0xFFFF

/-- R76: the closed form of Fold, and which ranges have Checksum 0xFFFF and 0x0000. -/
def Obligations.ChecksumClosedForm : Prop :=
  (∀ acc : Word, (fold acc).toNat = (if acc.toNat = 0 then 0 else 1 + (acc.toNat - 1) % 0xFFFF) ∧
    (fold acc).toNat % 0xFFFF = acc.toNat % 0xFFFF) ∧
  (∀ (byte : Nat → Byte) (a n : Nat), n ≤ 131074 →
    (checksum byte a n = 0xFFFF ↔ ∀ j < (n + 1) / 2, wordAt byte a n j = 0) ∧
    (checksum byte a n = 0 ↔ 0 < wordSum byte a n ∧ wordSum byte a n % 0xFFFF = 0))

/-- R80: writing a range's checksum into a 16-bit field of it that held 0, at an even distance from its start, makes the
range's checksum 0, unless the range summed to 0; at an odd distance this does not hold in general. -/
def Obligations.ChecksumSelfValidates : Prop :=
  (∀ (s : State) (a n j : Nat), n ≤ 131074 → 2 * j + 1 < n →
    s.readByte (a + 2 * j) = 0 → s.readByte (a + 2 * j + 1) = 0 → fold (inetSum s.readByte a n) ≠ 0 →
    checksum (memWrite (a + 2 * j) 2 ((checksum s.readByte a n).setWidth 32) s).readByte a n = 0) ∧
  (∃ (s : State) (a n j : Nat), n ≤ 131074 ∧ 2 * j + 2 < n ∧
    s.readByte (a + 2 * j + 1) = 0 ∧ s.readByte (a + 2 * j + 2) = 0 ∧ fold (inetSum s.readByte a n) ≠ 0 ∧
    checksum (memWrite (a + 2 * j + 1) 2 ((checksum s.readByte a n).setWidth 32) s).readByte a n ≠ 0)

/-- R81: a range whose plain sum is below 2^32 may be summed in pieces, split at an even length, and a piece whose folded
sum is 0xFFFF leaves a nonzero folded sum unchanged and turns 0 into 0xFFFF. -/
def Obligations.ChecksumSplits : Prop :=
  (∀ (byte : Nat → Byte) (a n1 n2 : Nat), n1 % 2 = 0 → wordSum byte a (n1 + n2) < 2 ^ 32 →
    fold (inetSum byte a (n1 + n2)) = fold (fold (inetSum byte a n1) + fold (inetSum byte (a + n1) n2))) ∧
  (∀ x : Word, x.toNat ≤ 0xFFFF → fold (0xFFFF + x) = if x = 0 then 0xFFFF else x)

/-- R78: CSUM. In range, ACC is the folded sum of the words of BUF[OFF .. OFF+CNT-1] and RESULT its complement; out of
range, RANGE_ERROR. Nothing else changes. -/
def Obligations.CsumComputesTheChecksum : Prop :=
  decode 0x00000001 = .ok .csum ∧
  ∀ s : State, s.params.wf →
    (s.params.bufCap.toNat < s.len.toNat ∨ s.len.toNat < s.off.toNat + s.cnt.toNat →
      exec .csum s = .next { s with err := .rangeError, inFlight := none }) ∧
    (s.len.toNat ≤ s.params.bufCap.toNat ∧ s.off.toNat + s.cnt.toNat ≤ s.len.toNat →
      exec .csum s = .next { s with
        acc := BitVec.ofNat 32 (foldedSum (wordSum s.readByte s.off.toNat s.cnt.toNat))
        result := BitVec.ofNat 32 (0xFFFF - foldedSum (wordSum s.readByte s.off.toNat s.cnt.toNat))
        err := .ok
        inFlight := none })

/-! ## Codec -/

/-- R83: GET16. -/
def Obligations.Get16ReadsBigEndian : Prop :=
  decode 0x00000002 = .ok .get16 ∧
  ∀ s : State,
    (s.params.bufCap.toNat < s.len.toNat ∨ s.len.toNat < s.off.toNat + 2 →
      exec .get16 s = .next { s with err := .rangeError, inFlight := none }) ∧
    (s.len.toNat ≤ s.params.bufCap.toNat ∧ s.off.toNat + 2 ≤ s.len.toNat →
      exec .get16 s = .next { s with
        result := BitVec.ofNat 32
          ((s.readByte s.off.toNat).toNat * 2 ^ 8 + (s.readByte (s.off.toNat + 1)).toNat)
        err := .ok
        inFlight := none })

/-- R84: GET32. -/
def Obligations.Get32ReadsBigEndian : Prop :=
  decode 0x00000003 = .ok .get32 ∧
  ∀ s : State,
    (s.params.bufCap.toNat < s.len.toNat ∨ s.len.toNat < s.off.toNat + 4 →
      exec .get32 s = .next { s with err := .rangeError, inFlight := none }) ∧
    (s.len.toNat ≤ s.params.bufCap.toNat ∧ s.off.toNat + 4 ≤ s.len.toNat →
      exec .get32 s = .next { s with
        result := BitVec.ofNat 32
          ((s.readByte s.off.toNat).toNat * 2 ^ 24 + (s.readByte (s.off.toNat + 1)).toNat * 2 ^ 16 +
            (s.readByte (s.off.toNat + 2)).toNat * 2 ^ 8 + (s.readByte (s.off.toNat + 3)).toNat)
        err := .ok
        inFlight := none })

/-- R85: PUT16. The store is at OFF, two bytes; every other byte of BUF and every register but STATUS stay. -/
def Obligations.Put16WritesBigEndian : Prop :=
  decode 0x00000004 = .ok .put16 ∧
  ∀ s : State,
    (s.params.bufCap.toNat < s.len.toNat ∨ s.len.toNat < s.off.toNat + 2 →
      exec .put16 s = .next { s with err := .rangeError, inFlight := none }) ∧
    (s.len.toNat ≤ s.params.bufCap.toNat ∧ s.off.toNat + 2 ≤ s.len.toNat →
      ∃ t, exec .put16 s = .next t ∧ t = { s with buf := t.buf, err := .ok, inFlight := none } ∧
        bytesAt t s.off.toNat 2 = [s.val.extractLsb' 8 8, s.val.extractLsb' 0 8] ∧
        ∀ a, a < s.off.toNat ∨ s.off.toNat + 2 ≤ a → t.readByte a = s.readByte a)

/-- R86: PUT32. -/
def Obligations.Put32WritesBigEndian : Prop :=
  decode 0x00000005 = .ok .put32 ∧
  ∀ s : State,
    (s.params.bufCap.toNat < s.len.toNat ∨ s.len.toNat < s.off.toNat + 4 →
      exec .put32 s = .next { s with err := .rangeError, inFlight := none }) ∧
    (s.len.toNat ≤ s.params.bufCap.toNat ∧ s.off.toNat + 4 ≤ s.len.toNat →
      ∃ t, exec .put32 s = .next t ∧ t = { s with buf := t.buf, err := .ok, inFlight := none } ∧
        bytesAt t s.off.toNat 4 =
          [s.val.extractLsb' 24 8, s.val.extractLsb' 16 8, s.val.extractLsb' 8 8, s.val.extractLsb' 0 8] ∧
        ∀ a, a < s.off.toNat ∨ s.off.toNat + 4 ≤ a → t.readByte a = s.readByte a)

/-- R88: a value put and then got back at the same place is itself, a 32-bit value reads back as its two halves, and
getting and putting back leaves BUF unchanged. -/
def Obligations.CodecRoundTrips : Prop :=
  ∀ s : State, s.len.toNat ≤ s.params.bufCap.toNat →
    (s.off.toNat + 4 ≤ s.len.toNat →
      (∃ t u, exec .put32 s = .next t ∧ exec .get32 t = .next u ∧ u.result = s.val) ∧
      (∃ t u v, exec .put32 s = .next t ∧ exec .get16 t = .next u ∧
        u.result = (s.val.extractLsb' 16 16).setWidth 32 ∧
        exec .get16 { t with off := s.off + 2 } = .next v ∧ v.result = (s.val.extractLsb' 0 16).setWidth 32) ∧
      (∃ t u, exec .get32 s = .next t ∧ exec .put32 { t with val := t.result } = .next u ∧
        ∀ a, u.readByte a = s.readByte a)) ∧
    (s.off.toNat + 2 ≤ s.len.toNat →
      ∃ t u, exec .put16 s = .next t ∧ exec .get16 t = .next u ∧
        u.result = (s.val.extractLsb' 0 16).setWidth 32)

/-! ## IPv4 header -/

/-- R91, R106: the two LEN commands, whatever the state. -/
def Obligations.LenCommandsReturnHeaderLengths : Prop :=
  decode 0x00000010 = .ok .ip4Len ∧ decode 0x00000020 = .ok .icmp4Len ∧
  ∀ s : State, exec .ip4Len s = .next { s with result := 20, err := .ok, inFlight := none } ∧
    exec .icmp4Len s = .next { s with result := 24, err := .ok, inFlight := none }

/-- R93 with the layout of R92: IP4_MARSHAL. -/
def Obligations.Ip4MarshalWritesTheHeader : Prop :=
  decode 0x00000011 = .ok .ip4Marshal ∧
  ∀ s : State,
    (s.len.toNat < 20 → exec .ip4Marshal s = .next { s with err := .bufferTooSmall, inFlight := none }) ∧
    (20 ≤ s.len.toNat ∧ s.params.maxLen.toNat < s.len.toNat →
      exec .ip4Marshal s = .next { s with err := .packetTooLarge, inFlight := none }) ∧
    (20 ≤ s.len.toNat ∧ s.len.toNat ≤ s.params.maxLen.toNat →
      ∃ t, exec .ip4Marshal s = .next t ∧
        t = { s with
          buf := t.buf
          acc := BitVec.ofNat 32
            (foldedSum (ip4HeaderSum (s.len.setWidth 16) s.ipid s.proto s.srcip s.dstip))
          err := .ok
          inFlight := none } ∧
        bytesAt t 0 20 = ip4HeaderOf s s.proto ∧
        ∀ a, 20 ≤ a → t.readByte a = s.readByte a)

/-- R101: after IP4_MARSHAL with ERR = 0, the checksum of bytes 0..19 is 0 and their folded sum 0xFFFF. -/
def Obligations.Ip4HeaderSelfValidates : Prop :=
  ∀ s : State, 20 ≤ s.len.toNat → s.len.toNat ≤ s.params.maxLen.toNat →
    ∃ t, exec .ip4Marshal s = .next t ∧ t.err = .ok ∧ checksum t.readByte 0 20 = 0

/-- R105: what IP4_MARSHAL writes depends on LEN, PROTO, IPID, SRCIP and DSTIP only, and running it twice gives the
same BUF and ACC. -/
def Obligations.Ip4MarshalIsDeterministic : Prop :=
  (∀ s s' : State, s'.len = s.len → s'.proto = s.proto → s'.ipid = s.ipid → s'.srcip = s.srcip →
    s'.dstip = s.dstip → 20 ≤ s.len.toNat → s.len.toNat ≤ s.params.maxLen.toNat →
    s.len.toNat ≤ s'.params.maxLen.toNat →
    ∃ t t', exec .ip4Marshal s = .next t ∧ exec .ip4Marshal s' = .next t' ∧ bytesAt t' 0 20 = bytesAt t 0 20 ∧
      t'.acc = t.acc) ∧
  (∀ s : State, 20 ≤ s.len.toNat → s.len.toNat ≤ s.params.maxLen.toNat →
    ∃ t u, exec .ip4Marshal s = .next t ∧ exec .ip4Marshal t = .next u ∧ u.acc = t.acc ∧
      ∀ a, u.readByte a = t.readByte a)

/-- R95: with the parameters of R7, bytes 2-3 of the header equal the buffer length exactly, and bytes 18-19 of the
pseudo-header equal it less 20. -/
def Obligations.LengthFieldsAreExact : Prop :=
  ∀ s : State, s.params.wf → 20 ≤ s.len.toNat → s.len.toNat ≤ s.params.maxLen.toNat →
    (∃ t, exec .ip4Marshal s = .next t ∧
      (t.readByte 2).toNat * 2 ^ 8 + (t.readByte 3).toNat = s.len.toNat) ∧
    (∃ t, exec .ip4MarshalPseudo s = .next t ∧
      (t.readByte 18).toNat * 2 ^ 8 + (t.readByte 19).toNat = s.len.toNat - 20)

/-- R97 with the layout of R96: IP4_MARSHAL_PSEUDO; ACC and RESULT stay. -/
def Obligations.PseudoHeaderIsWritten : Prop :=
  decode 0x00000012 = .ok .ip4MarshalPseudo ∧
  ∀ s : State,
    (s.len.toNat < 20 → exec .ip4MarshalPseudo s = .next { s with err := .bufferTooSmall, inFlight := none }) ∧
    (20 ≤ s.len.toNat ∧ s.params.maxLen.toNat < s.len.toNat →
      exec .ip4MarshalPseudo s = .next { s with err := .packetTooLarge, inFlight := none }) ∧
    (20 ≤ s.len.toNat ∧ s.len.toNat ≤ s.params.maxLen.toNat →
      ∃ t, exec .ip4MarshalPseudo s = .next t ∧ t = { s with buf := t.buf, err := .ok, inFlight := none } ∧
        bytesAt t 0 20 = pseudoLayout s.proto (BitVec.ofNat 16 (s.len.toNat - 20)) s.srcip s.dstip ∧
        ∀ a, 20 ≤ a → t.readByte a = s.readByte a)

/-- R99: IP4_TO_RESPONSE, whatever the state. -/
def Obligations.Ip4ToResponseSwapsAndComplements : Prop :=
  decode 0x00000013 = .ok .ip4ToResponse ∧
  ∀ s : State, exec .ip4ToResponse s = .next { s with
    srcip := s.dstip
    dstip := s.srcip
    ipid := BitVec.ofNat 16 (0xFFFF - s.ipid.toNat)
    err := .ok
    inFlight := none }

/-- R100: two IP4_TO_RESPONSE commands in a row restore SRCIP, DSTIP and IPID, and leave nothing else changed but
STATUS. -/
def Obligations.Ip4ToResponseIsInvolutive : Prop :=
  ∀ s : State, ∃ t u, exec .ip4ToResponse s = .next t ∧ exec .ip4ToResponse t = .next u ∧
    u = { s with err := .ok, inFlight := none }

/-! ## ICMPv4 header -/

/-- R108 with the layouts of R92 and R107: ICMP4_MARSHAL. ACC is the folded sum of the whole buffer with the ICMP
checksum field 0, and bytes 22-23 its complement. -/
def Obligations.Icmp4MarshalWritesBothHeaders : Prop :=
  decode 0x00000021 = .ok .icmp4Marshal ∧
  ∀ s : State, s.params.wf →
    (s.len.toNat < 24 → exec .icmp4Marshal s = .next { s with err := .bufferTooSmall, inFlight := none }) ∧
    (s.params.maxLen.toNat < s.len.toNat →
      exec .icmp4Marshal s = .next { s with err := .packetTooLarge, inFlight := none }) ∧
    (24 ≤ s.len.toNat ∧ s.len.toNat ≤ s.params.maxLen.toNat →
      ∃ t, exec .icmp4Marshal s = .next t ∧
        t = { s with
          buf := t.buf
          acc := BitVec.ofNat 32 (foldedSum (icmp4BufferSum s))
          err := .ok
          inFlight := none } ∧
        bytesAt t 0 20 = ip4HeaderOf s 1 ∧
        bytesAt t 20 4 = [s.icmpType, s.icmpCode] ++
          beBytes16 (BitVec.ofNat 16 (0xFFFF - foldedSum (icmp4BufferSum s))) ∧
        ∀ a, 24 ≤ a → t.readByte a = s.readByte a)

/-- R114: after ICMP4_MARSHAL with ERR = 0 both checksums validate. -/
def Obligations.Icmp4HeaderSelfValidates : Prop :=
  ∀ s : State, s.params.wf → 24 ≤ s.len.toNat → s.len.toNat ≤ s.params.maxLen.toNat →
    ∃ t, exec .icmp4Marshal s = .next t ∧ t.err = .ok ∧ checksum t.readByte 0 20 = 0 ∧
      checksum t.readByte 0 s.len.toNat = 0

/-- R110: let p be the sum of the ICMP part alone (type, code, field 0, payload). When p is not 0, ACC is its folded sum
and the ICMP checksum written is the ICMP-only one; when every word of it is 0, ACC is 0xFFFF and the block writes
0x0000. -/
def Obligations.WholeBufferSumMatchesIcmpPart : Prop :=
  ∀ (s : State) (p : Nat), s.params.wf → 24 ≤ s.len.toNat → s.len.toNat ≤ s.params.maxLen.toNat →
    p = s.icmpType.toNat * 256 + s.icmpCode.toNat + wordSum s.readByte 24 (s.len.toNat - 24) →
    ∃ t, exec .icmp4Marshal s = .next t ∧
      t.acc.toNat = (if p = 0 then 0xFFFF else foldedSum p) ∧
      (t.readByte 22).toNat * 256 + (t.readByte 23).toNat = (if p = 0 then 0 else 0xFFFF - foldedSum p)

/-- R113, R115: ICMP4_MARSHAL writes protocol byte 1 whatever PROTO holds and does not change PROTO, and an IP4_MARSHAL
after it writes PROTO as the host left it. -/
def Obligations.IcmpForcesByteNineNotProto : Prop :=
  ∀ s : State, 24 ≤ s.len.toNat → s.len.toNat ≤ s.params.maxLen.toNat →
    ∃ t u, exec .icmp4Marshal s = .next t ∧ t.readByte 9 = 1 ∧ t.proto = s.proto ∧
      exec .ip4Marshal t = .next u ∧ u.readByte 9 = s.proto

/-- R111, R112: ICMP4_TO_RESPONSE, for every type and code the registers hold. -/
def Obligations.Icmp4ToResponseWritesTheReply : Prop :=
  decode 0x00000022 = .ok .icmp4ToResponse ∧
  ∀ s : State, exec .icmp4ToResponse s = .next { s with
    icmpType := s.params.echoReply
    icmpCode := 0
    srcip := s.dstip
    dstip := s.srcip
    ipid := BitVec.ofNat 16 (0xFFFF - s.ipid.toNat)
    err := .ok
    inFlight := none }

/-! ## Result codes and what commands leave alone -/

/-- R117, with the checks of R116 and R119: STATUS.ERR after a command is the code of its cause. -/
def Obligations.ErrIsTheCodeOfItsCause : Prop :=
  ∀ (i : Instr) (s : State), ∃ t, exec i s = .next t ∧ t.err = expectedErr i s

/-- R121: a command, or a word that is none, that ends with a code other than OK writes nothing but STATUS. -/
def Obligations.ErrorWritesNothingButStatus : Prop :=
  (∀ (i : Instr) (s t : State), exec i s = .next t → t.err ≠ .ok → t = { s with err := t.err, inFlight := none }) ∧
  (∀ (w : Word) (s t : State), runWord w s = .next t → t.err ≠ .ok → t = { s with err := t.err, inFlight := none })

/-- R33 (registers), R19-R24, R25: which command writes which register. -/
def Obligations.CommandsWriteOnlyTheirRegisters : Prop :=
  ∀ (i : Instr) (s t : State), exec i s = .next t →
    t.len = s.len ∧ t.off = s.off ∧ t.cnt = s.cnt ∧ t.val = s.val ∧ t.proto = s.proto ∧
    (i ∉ [.csum, .get16, .get32, .ip4Len, .icmp4Len] → t.result = s.result) ∧
    (i ∉ [.csum, .ip4Marshal, .icmp4Marshal] → t.acc = s.acc) ∧
    (i ∉ [.ip4ToResponse, .icmp4ToResponse] → t.ipid = s.ipid ∧ t.srcip = s.srcip ∧ t.dstip = s.dstip) ∧
    (i ≠ .icmp4ToResponse → t.icmpType = s.icmpType ∧ t.icmpCode = s.icmpCode)

/-- R44, R33 (BUF): a command changes no byte of BUF but those listed for it, which are all in the buffer when it ends
with OK. -/
def Obligations.CommandsStoreOnlyListedBytes : Prop :=
  ∀ (i : Instr) (s t : State), exec i s = .next t →
    (∀ a, a ∉ mayWrite i s → t.readByte a = s.readByte a) ∧
    (s.params.wf → t.err = .ok → ∀ a ∈ mayWrite i s, a < s.len.toNat ∧ s.len.toNat ≤ s.params.bufCap.toNat)

/-- R43: bytes at addresses at or above LEN are read by no command: two states that agree on everything but those bytes
end alike, and still agree below LEN. -/
def Obligations.BytesPastLenAreNotRead : Prop :=
  ∀ (i : Instr) (s s' : State), s' = { s with buf := s'.buf, powerCycle := s'.powerCycle } →
    (∀ a < s.len.toNat, s'.readByte a = s.readByte a) →
    ∃ t t', exec i s = .next t ∧ exec i s' = .next t' ∧
      t' = { t with buf := t'.buf, powerCycle := t'.powerCycle } ∧
      ∀ a < s.len.toNat, t'.readByte a = t.readByte a

/-! ## The host -/

/-- R14, R15, R16, R52: a host read of each offset of the register map while BUSY = 0 gives back that register and has
no side effect. -/
def Obligations.RegisterReadsFollowTheMap : Prop :=
  ∀ (s : State) (rest : List Input) (d v : Word) (n : Nat), s.ready →
    s.inputs = .host ⟨.read, .reg, .w32, n, d⟩ :: rest →
    (n, v) ∈ [(0x00, 0), (0x04, statusWord s), (0x08, s.len), (0x0C, s.off), (0x10, s.cnt), (0x14, s.val),
      (0x18, s.result), (0x1C, s.acc), (0x20, BitVec.ofNat 32 s.proto.toNat), (0x24, BitVec.ofNat 32 s.ipid.toNat),
      (0x28, s.srcip), (0x2C, s.dstip), (0x30, BitVec.ofNat 32 s.icmpType.toNat),
      (0x34, BitVec.ofNat 32 s.icmpCode.toNat), (0x38, s.params.maxLen), (0x3C, s.params.bufCap)] →
    step s = .next { s with inputs := rest, readData := some v }

/-- R15, R16: after a host write of v to a register other than CMD, a read gives the low bits of v of the field's width
if the register is RW and the old value if it is RO; no other register and no byte of BUF changes. -/
def Obligations.RegisterWriteThenRead : Prop :=
  ∀ (s : State) (r : Reg) (v : Word) (rest : List Input), s.ready → r ≠ .cmd →
    s.inputs = line (.wr r v) :: line (.rd r) :: rest →
    ∃ t u, step s = .next t ∧ step t = .next u ∧ u.inputs = rest ∧
      u.readData = some (if r.accessType = .readWrite then BitVec.ofNat 32 (v.toNat % 2 ^ fieldWidth r)
        else regRead r s) ∧
      (∀ r', r' ≠ r → regRead r' u = regRead r' s) ∧ ∀ a, u.readByte a = s.readByte a

/-- R18: the shape of STATUS. -/
def Obligations.StatusFieldsAreAsGiven : Prop :=
  ∀ s : State,
    (statusWord s).toNat % 2 = (if s.inFlight = none then 0 else 1) ∧
    (statusWord s).toNat / 2 % 2 ^ 3 = 0 ∧
    (statusWord s).toNat / 2 ^ 4 % 2 ^ 4 =
      (match s.err with | .ok => 0 | .bufferTooSmall => 1 | .packetTooLarge => 2 | .rangeError => 3 | .illegalCmd => 4) ∧
    (statusWord s).toNat / 2 ^ 8 = 0

/-- R43: the host reaches every byte of BUF below BUF_CAP while BUSY = 0: a write stores its byte and changes nothing
else, and a read gives a byte back and has no side effect. -/
def Obligations.HostReachesEveryBufByte : Prop :=
  ∀ (s : State) (a : Nat) (d : Word) (rest : List Input), s.ready → a < s.params.bufCap.toNat →
    (s.inputs = .host ⟨.write, .buf, .w8, a, d⟩ :: rest →
      ∃ t, step s = .next t ∧ t = { s with inputs := rest, buf := t.buf } ∧ t.readByte a = d.extractLsb' 0 8 ∧
        ∀ x, x ≠ a → t.readByte x = s.readByte x) ∧
    (s.inputs = .host ⟨.read, .buf, .w8, a, d⟩ :: rest →
      step s = .next { s with inputs := rest, readData := some (BitVec.ofNat 32 (s.readByte a).toNat) })

/-- R42, R43: every access form the spec refuses is marked as a host fault and does nothing else. -/
def Obligations.RefusedAccessRecordsAFault : Prop :=
  ∀ (s : State) (a : Access) (rest : List Input), s.safe → s.inputs = .host a :: rest →
    (a.space = .reg ∧ (a.width ≠ .w32 ∨ a.addr % 4 ≠ 0 ∨ 0x40 ≤ a.addr)) ∨
      (a.space = .buf ∧ (a.width ≠ .w8 ∨ s.params.bufCap.toNat ≤ a.addr)) →
    ∃ f, step s = .next { s with inputs := rest, hostFault := some f }

/-- R138: while BUSY = 1 a STATUS read is answered, and every other host access is marked as a host fault and does
nothing else. -/
def Obligations.OnlyStatusMayBeReadWhileBusy : Prop :=
  ∀ (s : State) (a : Access) (rest : List Input), s.safe → s.inFlight ≠ none → s.inputs = .host a :: rest →
    ((a.dir = .read ∧ a.space = .reg ∧ a.width = .w32 ∧ a.addr = 0x04) →
      step s = .next { s with inputs := rest, readData := some (statusWord s) }) ∧
    (¬(a.dir = .read ∧ a.space = .reg ∧ a.width = .w32 ∧ a.addr = 0x04) →
      ∃ f, step s = .next { s with inputs := rest, hostFault := some f })

/-- R138: a recorded host fault is never cleared: no step leads on from a faulted state. That the machine answers a
fault there is the model's choice (log entry 6). -/
def Obligations.HostFaultIsNeverCleared : Prop :=
  ∀ (s : State) (f : HostFault), s.hostFault = some f →
    step s = .fault (.hostProtocolViolation f) ∧ ∀ t, step s ≠ .next t

/-! ## Reset -/

/-- R37: the machine right after reset, for every value of the parameters. -/
def Obligations.ResetValuesAreAsGiven : Prop :=
  ∀ (p : Params) (s : State), s = State.resetWith p →
    statusWord s = 0 ∧ s.inFlight = none ∧ s.err = .ok ∧ s.len = 0 ∧ s.off = 0 ∧ s.cnt = 0 ∧ s.val = 0 ∧
    s.result = 0 ∧ s.acc = 0 ∧ s.proto = 0 ∧ s.ipid = 0 ∧ s.srcip = 0 ∧ s.dstip = 0 ∧ s.icmpType = 0 ∧
    s.icmpCode = 0 ∧ regRead .maxlen s = p.maxLen ∧ regRead .bufcap s = p.bufCap ∧
    ∀ a, s.readByte a = Config.powerOnByte s.powerCycle a

/-- R132: the reset input with no command in flight: every register at its reset value, BUF keeps its bytes. -/
def Obligations.ResetInputClearsRegistersKeepsBuf : Prop :=
  ∀ (s : State) (rest : List Input), s.ready → s.inputs = .reset :: rest →
    step s = .next { s with
      inputs := rest, err := .ok, len := 0, off := 0, cnt := 0, val := 0, result := 0, acc := 0, proto := 0,
      ipid := 0, srcip := 0, dstip := 0, icmpType := 0, icmpCode := 0 }

/-- R133: the reset input with a command in flight: every register at its reset value, and each byte of BUF is as
before, or is a byte the abandoned command may write and is as the command would have left it. -/
def Obligations.ResetAbandonsTheCommand : Prop :=
  ∀ (s : State) (w : Word) (rest : List Input), s.safe → s.inFlight = some w → s.inputs = .reset :: rest →
    ∃ t, step s = .next t ∧
      t = { State.resetWith s.params with
        buf := t.buf, powerCycle := s.powerCycle, draws := t.draws, inputs := rest, readData := s.readData } ∧
      ∀ a, t.readByte a = s.readByte a ∨
        ∃ i u, decode w = .ok i ∧ exec i { s with inputs := rest } = .next u ∧ a ∈ mayWrite i s ∧
          t.readByte a = u.readByte a

/-- R132, R48: after power-on every register is at its reset value and every byte of BUF is the unspecified byte of the
new power cycle. -/
def Obligations.PowerOnLeavesBufUnspecified : Prop :=
  ∀ (s : State) (rest : List Input), s.safe → s.inputs = .powerOn :: rest →
    ∃ t, step s = .next t ∧ t.powerCycle ≠ s.powerCycle ∧
      t = { State.resetWith s.params with
        powerCycle := t.powerCycle, draws := s.draws, inputs := rest, readData := s.readData } ∧
      ∀ a, t.readByte a = Config.powerOnByte t.powerCycle a

/-! ## Whole-machine rules -/

/-- The invariant is kept by every step: the parameters of R7, the canonical form of BUF inside BUF_CAP (R43), ACC a
folded sum (R24). -/
def Obligations.StepKeepsTheInvariant : Prop :=
  ∀ s t : State, s.Inv → step s = .next t → t.Inv

/-- State.reset is the reset state with the default parameters of R7 (log entry 12), and the invariant holds there. -/
def Obligations.ResetMeetsTheInvariant : Prop :=
  State.reset = State.resetWith ⟨65535, 65535, 0⟩ ∧ State.reset.Inv

/-- R32: MAXLEN and BUFCAP (and the parameter ICMP_ECHO_REPLY) are constant from reset on. -/
def Obligations.ParametersAreConstant : Prop :=
  ∀ s t : State, step s = .next t → regRead .maxlen t = s.params.maxLen ∧ regRead .bufcap t = s.params.bufCap ∧
    t.params = s.params
end

