-- ==== Sys2Proof/Laws/Memory.lean ====
section
/-! SUPPORT. The basic laws of the buffer memory: read after write, and that a write keeps the canonical form. -/

namespace Sys2Proof.Machine

/-- Read after write, at the written address and at every other one; no canonical form is needed. -/
theorem Memory.lookup_write (m : Memory) (a : Nat) (b : Byte) (x : Nat) :
    Memory.lookup (Memory.write m a b) x = if x = a then some b else Memory.lookup m x := by
  induction m with
  | nil => simp [Memory.write, Memory.lookup, eq_comm]
  | cons c rest ih =>
    obtain ⟨k, v⟩ := c
    by_cases h1 : a < k
    · by_cases hx : x = a
      · simp [Memory.write, Memory.lookup, h1, hx]
      · simp [Memory.write, Memory.lookup, h1, hx, Ne.symm hx]
    · by_cases h2 : a = k
      · subst h2
        by_cases hx : x = a
        · simp [Memory.write, Memory.lookup, hx]
        · simp [Memory.write, Memory.lookup, hx, Ne.symm hx]
      · by_cases hk : k = x
        · subst hk
          simp [Memory.write, Memory.lookup, h1, h2, Ne.symm h2]
        · simp [Memory.write, Memory.lookup, h1, h2, hk, ih]

theorem Memory.lookup_write_same (m : Memory) (a : Nat) (b : Byte) :
    Memory.lookup (Memory.write m a b) a = some b := by
  simp [Memory.lookup_write]

theorem Memory.lookup_write_other (m : Memory) {a x : Nat} (b : Byte) (h : x ≠ a) :
    Memory.lookup (Memory.write m a b) x = Memory.lookup m x := by
  simp [Memory.lookup_write, h]

/-- A write lists the written cell and cells that were listed. -/
theorem Memory.mem_write {m : Memory} {a : Nat} {b : Byte} {c : Host.Cell}
    (h : c ∈ Memory.write m a b) : c = (a, b) ∨ c ∈ m := by
  induction m with
  | nil => simpa [Memory.write] using h
  | cons d rest ih =>
    obtain ⟨k, v⟩ := d
    unfold Memory.write at h
    split_ifs at h with h1 h2
    · simpa using h
    · rcases List.mem_cons.1 h with h | h
      · exact .inl h
      · exact .inr (List.mem_cons_of_mem _ h)
    · rcases List.mem_cons.1 h with h | h
      · exact .inr (h ▸ List.mem_cons_self)
      · exact (ih h).imp id (List.mem_cons_of_mem _)

/-- A write keeps the canonical form. -/
theorem Memory.wf_write {m : Memory} (h : Memory.wf m) (a : Nat) (b : Byte) :
    Memory.wf (Memory.write m a b) := by
  induction m with
  | nil => simp [Memory.write]
  | cons d rest ih =>
    obtain ⟨k, v⟩ := d
    obtain ⟨hd, hr⟩ := List.pairwise_cons.1 h
    unfold Memory.write
    split_ifs with h1 h2
    · refine List.pairwise_cons.2 ⟨fun y hy => ?_, h⟩
      rcases List.mem_cons.1 hy with rfl | hy
      · exact h1
      · exact lt_trans h1 (hd y hy)
    · subst h2
      exact List.pairwise_cons.2 ⟨hd, hr⟩
    · refine List.pairwise_cons.2 ⟨fun y hy => ?_, ih hr⟩
      rcases Memory.mem_write hy with rfl | hy
      · change k < a
        omega
      · exact hd y hy

theorem Memory.wf_nil : Memory.wf [] := List.Pairwise.nil

end Sys2Proof.Machine
end

