-- ==== Sys2Proof/Laws/State.lean ====
section
/-! SUPPORT. Every named update of the state, field by field, so that no proof unfolds a record update. -/

namespace Sys2Proof.Machine

section EndCommand
variable (s : State) (c : ResultCode)

@[simp] theorem endCommand_params : (s.endCommand c).params = s.params := rfl
@[simp] theorem endCommand_err : (s.endCommand c).err = c := rfl
@[simp] theorem endCommand_inFlight : (s.endCommand c).inFlight = none := rfl
@[simp] theorem endCommand_len : (s.endCommand c).len = s.len := rfl
@[simp] theorem endCommand_off : (s.endCommand c).off = s.off := rfl
@[simp] theorem endCommand_cnt : (s.endCommand c).cnt = s.cnt := rfl
@[simp] theorem endCommand_val : (s.endCommand c).val = s.val := rfl
@[simp] theorem endCommand_result : (s.endCommand c).result = s.result := rfl
@[simp] theorem endCommand_acc : (s.endCommand c).acc = s.acc := rfl
@[simp] theorem endCommand_proto : (s.endCommand c).proto = s.proto := rfl
@[simp] theorem endCommand_ipid : (s.endCommand c).ipid = s.ipid := rfl
@[simp] theorem endCommand_srcip : (s.endCommand c).srcip = s.srcip := rfl
@[simp] theorem endCommand_dstip : (s.endCommand c).dstip = s.dstip := rfl
@[simp] theorem endCommand_icmpType : (s.endCommand c).icmpType = s.icmpType := rfl
@[simp] theorem endCommand_icmpCode : (s.endCommand c).icmpCode = s.icmpCode := rfl
@[simp] theorem endCommand_buf : (s.endCommand c).buf = s.buf := rfl
@[simp] theorem endCommand_powerCycle : (s.endCommand c).powerCycle = s.powerCycle := rfl
@[simp] theorem endCommand_draws : (s.endCommand c).draws = s.draws := rfl
@[simp] theorem endCommand_inputs : (s.endCommand c).inputs = s.inputs := rfl
@[simp] theorem endCommand_readData : (s.endCommand c).readData = s.readData := rfl
@[simp] theorem endCommand_hostFault : (s.endCommand c).hostFault = s.hostFault := rfl
@[simp] theorem endCommand_readByte : (s.endCommand c).readByte = s.readByte := rfl

end EndCommand

section SetAcc
variable (s : State) (w : Word)

@[simp] theorem setAcc_params : (s.setAcc w).params = s.params := rfl
@[simp] theorem setAcc_err : (s.setAcc w).err = s.err := rfl
@[simp] theorem setAcc_inFlight : (s.setAcc w).inFlight = s.inFlight := rfl
@[simp] theorem setAcc_len : (s.setAcc w).len = s.len := rfl
@[simp] theorem setAcc_off : (s.setAcc w).off = s.off := rfl
@[simp] theorem setAcc_cnt : (s.setAcc w).cnt = s.cnt := rfl
@[simp] theorem setAcc_val : (s.setAcc w).val = s.val := rfl
@[simp] theorem setAcc_result : (s.setAcc w).result = s.result := rfl
@[simp] theorem setAcc_acc : (s.setAcc w).acc = w := rfl
@[simp] theorem setAcc_proto : (s.setAcc w).proto = s.proto := rfl
@[simp] theorem setAcc_ipid : (s.setAcc w).ipid = s.ipid := rfl
@[simp] theorem setAcc_srcip : (s.setAcc w).srcip = s.srcip := rfl
@[simp] theorem setAcc_dstip : (s.setAcc w).dstip = s.dstip := rfl
@[simp] theorem setAcc_icmpType : (s.setAcc w).icmpType = s.icmpType := rfl
@[simp] theorem setAcc_icmpCode : (s.setAcc w).icmpCode = s.icmpCode := rfl
@[simp] theorem setAcc_buf : (s.setAcc w).buf = s.buf := rfl
@[simp] theorem setAcc_powerCycle : (s.setAcc w).powerCycle = s.powerCycle := rfl
@[simp] theorem setAcc_draws : (s.setAcc w).draws = s.draws := rfl
@[simp] theorem setAcc_inputs : (s.setAcc w).inputs = s.inputs := rfl
@[simp] theorem setAcc_readData : (s.setAcc w).readData = s.readData := rfl
@[simp] theorem setAcc_hostFault : (s.setAcc w).hostFault = s.hostFault := rfl
@[simp] theorem setAcc_readByte : (s.setAcc w).readByte = s.readByte := rfl

end SetAcc

section SetResult
variable (s : State) (w : Word)

@[simp] theorem setResult_params : (s.setResult w).params = s.params := rfl
@[simp] theorem setResult_err : (s.setResult w).err = s.err := rfl
@[simp] theorem setResult_inFlight : (s.setResult w).inFlight = s.inFlight := rfl
@[simp] theorem setResult_len : (s.setResult w).len = s.len := rfl
@[simp] theorem setResult_off : (s.setResult w).off = s.off := rfl
@[simp] theorem setResult_cnt : (s.setResult w).cnt = s.cnt := rfl
@[simp] theorem setResult_val : (s.setResult w).val = s.val := rfl
@[simp] theorem setResult_result : (s.setResult w).result = w := rfl
@[simp] theorem setResult_acc : (s.setResult w).acc = s.acc := rfl
@[simp] theorem setResult_proto : (s.setResult w).proto = s.proto := rfl
@[simp] theorem setResult_ipid : (s.setResult w).ipid = s.ipid := rfl
@[simp] theorem setResult_srcip : (s.setResult w).srcip = s.srcip := rfl
@[simp] theorem setResult_dstip : (s.setResult w).dstip = s.dstip := rfl
@[simp] theorem setResult_icmpType : (s.setResult w).icmpType = s.icmpType := rfl
@[simp] theorem setResult_icmpCode : (s.setResult w).icmpCode = s.icmpCode := rfl
@[simp] theorem setResult_buf : (s.setResult w).buf = s.buf := rfl
@[simp] theorem setResult_powerCycle : (s.setResult w).powerCycle = s.powerCycle := rfl
@[simp] theorem setResult_draws : (s.setResult w).draws = s.draws := rfl
@[simp] theorem setResult_inputs : (s.setResult w).inputs = s.inputs := rfl
@[simp] theorem setResult_readData : (s.setResult w).readData = s.readData := rfl
@[simp] theorem setResult_hostFault : (s.setResult w).hostFault = s.hostFault := rfl
@[simp] theorem setResult_readByte : (s.setResult w).readByte = s.readByte := rfl

end SetResult

section SwapToResponse
variable (s : State)

@[simp] theorem swapToResponse_params : (swapToResponse s).params = s.params := rfl
@[simp] theorem swapToResponse_err : (swapToResponse s).err = s.err := rfl
@[simp] theorem swapToResponse_inFlight : (swapToResponse s).inFlight = s.inFlight := rfl
@[simp] theorem swapToResponse_len : (swapToResponse s).len = s.len := rfl
@[simp] theorem swapToResponse_off : (swapToResponse s).off = s.off := rfl
@[simp] theorem swapToResponse_cnt : (swapToResponse s).cnt = s.cnt := rfl
@[simp] theorem swapToResponse_val : (swapToResponse s).val = s.val := rfl
@[simp] theorem swapToResponse_result : (swapToResponse s).result = s.result := rfl
@[simp] theorem swapToResponse_acc : (swapToResponse s).acc = s.acc := rfl
@[simp] theorem swapToResponse_proto : (swapToResponse s).proto = s.proto := rfl
@[simp] theorem swapToResponse_ipid : (swapToResponse s).ipid = ~~~s.ipid := rfl
@[simp] theorem swapToResponse_srcip : (swapToResponse s).srcip = s.dstip := rfl
@[simp] theorem swapToResponse_dstip : (swapToResponse s).dstip = s.srcip := rfl
@[simp] theorem swapToResponse_icmpType : (swapToResponse s).icmpType = s.icmpType := rfl
@[simp] theorem swapToResponse_icmpCode : (swapToResponse s).icmpCode = s.icmpCode := rfl
@[simp] theorem swapToResponse_buf : (swapToResponse s).buf = s.buf := rfl
@[simp] theorem swapToResponse_powerCycle : (swapToResponse s).powerCycle = s.powerCycle := rfl
@[simp] theorem swapToResponse_draws : (swapToResponse s).draws = s.draws := rfl
@[simp] theorem swapToResponse_inputs : (swapToResponse s).inputs = s.inputs := rfl
@[simp] theorem swapToResponse_readData : (swapToResponse s).readData = s.readData := rfl
@[simp] theorem swapToResponse_hostFault : (swapToResponse s).hostFault = s.hostFault := rfl
@[simp] theorem swapToResponse_readByte : (swapToResponse s).readByte = s.readByte := rfl

end SwapToResponse

section WriteByte
variable (s : State) (a : Nat) (b : Byte)

@[simp] theorem writeByte_params : (s.writeByte a b).params = s.params := rfl
@[simp] theorem writeByte_err : (s.writeByte a b).err = s.err := rfl
@[simp] theorem writeByte_inFlight : (s.writeByte a b).inFlight = s.inFlight := rfl
@[simp] theorem writeByte_len : (s.writeByte a b).len = s.len := rfl
@[simp] theorem writeByte_off : (s.writeByte a b).off = s.off := rfl
@[simp] theorem writeByte_cnt : (s.writeByte a b).cnt = s.cnt := rfl
@[simp] theorem writeByte_val : (s.writeByte a b).val = s.val := rfl
@[simp] theorem writeByte_result : (s.writeByte a b).result = s.result := rfl
@[simp] theorem writeByte_acc : (s.writeByte a b).acc = s.acc := rfl
@[simp] theorem writeByte_proto : (s.writeByte a b).proto = s.proto := rfl
@[simp] theorem writeByte_ipid : (s.writeByte a b).ipid = s.ipid := rfl
@[simp] theorem writeByte_srcip : (s.writeByte a b).srcip = s.srcip := rfl
@[simp] theorem writeByte_dstip : (s.writeByte a b).dstip = s.dstip := rfl
@[simp] theorem writeByte_icmpType : (s.writeByte a b).icmpType = s.icmpType := rfl
@[simp] theorem writeByte_icmpCode : (s.writeByte a b).icmpCode = s.icmpCode := rfl
@[simp] theorem writeByte_buf : (s.writeByte a b).buf = s.buf.write a b := rfl
@[simp] theorem writeByte_powerCycle : (s.writeByte a b).powerCycle = s.powerCycle := rfl
@[simp] theorem writeByte_draws : (s.writeByte a b).draws = s.draws := rfl
@[simp] theorem writeByte_inputs : (s.writeByte a b).inputs = s.inputs := rfl
@[simp] theorem writeByte_readData : (s.writeByte a b).readData = s.readData := rfl
@[simp] theorem writeByte_hostFault : (s.writeByte a b).hostFault = s.hostFault := rfl

end WriteByte

/-- MemWrite changes BUF and nothing else. -/
theorem memWrite_eq (a n : Nat) (v : Word) (s : State) :
    memWrite a n v s = { s with buf := (memWrite a n v s).buf } := by
  induction n generalizing a s with
  | zero => rfl
  | succ k ih =>
    simp only [memWrite]
    rw [ih]
    rfl

section MemWrite
variable (a n : Nat) (v : Word) (s : State)

@[simp] theorem memWrite_params : (memWrite a n v s).params = s.params := by rw [memWrite_eq]
@[simp] theorem memWrite_err : (memWrite a n v s).err = s.err := by rw [memWrite_eq]
@[simp] theorem memWrite_inFlight : (memWrite a n v s).inFlight = s.inFlight := by rw [memWrite_eq]
@[simp] theorem memWrite_len : (memWrite a n v s).len = s.len := by rw [memWrite_eq]
@[simp] theorem memWrite_off : (memWrite a n v s).off = s.off := by rw [memWrite_eq]
@[simp] theorem memWrite_cnt : (memWrite a n v s).cnt = s.cnt := by rw [memWrite_eq]
@[simp] theorem memWrite_val : (memWrite a n v s).val = s.val := by rw [memWrite_eq]
@[simp] theorem memWrite_result : (memWrite a n v s).result = s.result := by rw [memWrite_eq]
@[simp] theorem memWrite_acc : (memWrite a n v s).acc = s.acc := by rw [memWrite_eq]
@[simp] theorem memWrite_proto : (memWrite a n v s).proto = s.proto := by rw [memWrite_eq]
@[simp] theorem memWrite_ipid : (memWrite a n v s).ipid = s.ipid := by rw [memWrite_eq]
@[simp] theorem memWrite_srcip : (memWrite a n v s).srcip = s.srcip := by rw [memWrite_eq]
@[simp] theorem memWrite_dstip : (memWrite a n v s).dstip = s.dstip := by rw [memWrite_eq]
@[simp] theorem memWrite_icmpType : (memWrite a n v s).icmpType = s.icmpType := by rw [memWrite_eq]
@[simp] theorem memWrite_icmpCode : (memWrite a n v s).icmpCode = s.icmpCode := by rw [memWrite_eq]
@[simp] theorem memWrite_powerCycle : (memWrite a n v s).powerCycle = s.powerCycle := by rw [memWrite_eq]
@[simp] theorem memWrite_draws : (memWrite a n v s).draws = s.draws := by rw [memWrite_eq]
@[simp] theorem memWrite_inputs : (memWrite a n v s).inputs = s.inputs := by rw [memWrite_eq]
@[simp] theorem memWrite_readData : (memWrite a n v s).readData = s.readData := by rw [memWrite_eq]
@[simp] theorem memWrite_hostFault : (memWrite a n v s).hostFault = s.hostFault := by rw [memWrite_eq]

end MemWrite

section ResetRegs
variable (s : State)

@[simp] theorem resetRegs_params : (resetRegs s).params = s.params := rfl
@[simp] theorem resetRegs_err : (resetRegs s).err = .ok := rfl
@[simp] theorem resetRegs_inFlight : (resetRegs s).inFlight = none := rfl
@[simp] theorem resetRegs_acc : (resetRegs s).acc = 0 := rfl
@[simp] theorem resetRegs_buf : (resetRegs s).buf = s.buf := rfl
@[simp] theorem resetRegs_powerCycle : (resetRegs s).powerCycle = s.powerCycle := rfl
@[simp] theorem resetRegs_draws : (resetRegs s).draws = s.draws := rfl
@[simp] theorem resetRegs_inputs : (resetRegs s).inputs = s.inputs := rfl
@[simp] theorem resetRegs_readData : (resetRegs s).readData = s.readData := rfl
@[simp] theorem resetRegs_hostFault : (resetRegs s).hostFault = s.hostFault := rfl
@[simp] theorem resetRegs_readByte : (resetRegs s).readByte = s.readByte := rfl

end ResetRegs

section RecordFault
variable (f : HostFault) (s : State)

@[simp] theorem recordFault_hostFault : (recordFault f s).hostFault = some f := rfl
@[simp] theorem recordFault_params : (recordFault f s).params = s.params := rfl
@[simp] theorem recordFault_inFlight : (recordFault f s).inFlight = s.inFlight := rfl
@[simp] theorem recordFault_acc : (recordFault f s).acc = s.acc := rfl
@[simp] theorem recordFault_buf : (recordFault f s).buf = s.buf := rfl
@[simp] theorem recordFault_inputs : (recordFault f s).inputs = s.inputs := rfl

end RecordFault

end Sys2Proof.Machine
end

