-- ==== Sys2Proof/Laws/Ops.lean ====
section
/-! SUPPORT. One spec lemma per shared operation over BUF and per way a command ends. -/

namespace Sys2Proof.Machine

/-- A BUF byte after one byte is written. -/
theorem readByte_writeByte (s : State) (a : Nat) (b : Byte) (x : Nat) :
    (s.writeByte a b).readByte x = if x = a then b else s.readByte x := by
  simp only [State.readByte, writeByte_buf, writeByte_powerCycle, Memory.lookup_write]
  split <;> rfl

/-- What MemWrite(a, n, v) does to every byte of BUF: inside the range byte a+k gets bits 8(n-1-k)+7..8(n-1-k) of v,
outside it nothing changes. -/
theorem readByte_memWrite (a n : Nat) (v : Word) (s : State) (x : Nat) :
    (memWrite a n v s).readByte x =
      if a ≤ x ∧ x < a + n then v.extractLsb' (8 * (n - 1 - (x - a))) 8 else s.readByte x := by
  induction n generalizing a s with
  | zero =>
    rw [if_neg (by omega)]
    rfl
  | succ k ih =>
    simp only [memWrite, ih, readByte_writeByte]
    by_cases hx : x = a
    · subst hx
      simp
    · by_cases h : a + 1 ≤ x ∧ x < a + 1 + k
      · rw [if_pos h, if_pos (by omega)]
        congr 2
        omega
      · rw [if_neg h, if_neg hx, if_neg (by omega)]

theorem readByte_memWrite_outside {a n : Nat} {v : Word} {s : State} {x : Nat} (h : x < a ∨ a + n ≤ x) :
    (memWrite a n v s).readByte x = s.readByte x := by
  rw [readByte_memWrite, if_neg (by omega)]

/-- MemWrite keeps the canonical form of BUF. -/
theorem memWrite_buf_wf {s : State} (h : s.buf.wf) (a n : Nat) (v : Word) : (memWrite a n v s).buf.wf := by
  induction n generalizing a s with
  | zero => exact h
  | succ k ih => exact ih (s := s.writeByte _ _) (Memory.wf_write h _ _) (a + 1)

/-- MemWrite lists only addresses of its range beside those already listed. -/
theorem memWrite_buf_below {s : State} {lim : Nat} (h : ∀ c ∈ s.buf, c.1 < lim) (a n : Nat) (v : Word)
    (hn : a + n ≤ lim) : ∀ c ∈ (memWrite a n v s).buf, c.1 < lim := by
  induction n generalizing a s with
  | zero => exact h
  | succ k ih =>
    refine ih (s := s.writeByte _ _) (fun c hc => ?_) (a + 1) (by omega)
    rcases Memory.mem_write hc with rfl | hc
    · change a < lim
      omega
    · exact h c hc

/-- MemRead depends only on the bytes of its range. -/
theorem memRead_congr {f g : Nat → Byte} {a n : Nat} (h : ∀ x, a ≤ x → x < a + n → f x = g x) :
    memRead f a n = memRead g a n := by
  induction n generalizing a with
  | zero => rfl
  | succ k ih =>
    simp only [memRead]
    rw [h a (by omega) (by omega), ih fun x h1 h2 => h x (by omega) (by omega)]

/-- One byte of a MemRead of at most four bytes, as natural numbers, with the bound that makes the bytes disjoint. -/
theorem memRead_toNat (f : Nat → Byte) (a : Nat) {k : Nat} (hk : k < 4) :
    (memRead f a (k + 1)).toNat = (f a).toNat * 2 ^ (8 * k) + (memRead f (a + 1) k).toNat ∧
      (memRead f (a + 1) k).toNat < 2 ^ (8 * k) := by
  induction k generalizing a with
  | zero =>
    have := (f a).isLt
    simp [memRead]
    omega
  | succ j ih =>
    obtain ⟨h1, h2⟩ := ih (a + 1) (by omega)
    have hb := (f a).isLt
    have hb' := (f (a + 1)).isLt
    have hlow : (memRead f (a + 1) (j + 1)).toNat < 2 ^ (8 * (j + 1)) := by
      rw [h1, show 8 * (j + 1) = 8 * j + 8 by ring, pow_add]
      nlinarith
    refine ⟨?_, hlow⟩
    have hsh : ((f a).setWidth 32 <<< (8 * (j + 1))).toNat = (f a).toNat <<< (8 * (j + 1)) := by
      rw [BitVec.toNat_shiftLeft, BitVec.toNat_setWidth, Nat.mod_eq_of_lt (a := (f a).toNat) (by omega),
        Nat.mod_eq_of_lt]
      rw [Nat.shiftLeft_eq]
      calc (f a).toNat * 2 ^ (8 * (j + 1)) < 2 ^ 8 * 2 ^ (8 * (j + 1)) :=
            Nat.mul_lt_mul_of_pos_right hb (by positivity)
        _ = 2 ^ (8 + 8 * (j + 1)) := (pow_add _ _ _).symm
        _ ≤ 2 ^ 32 := Nat.pow_le_pow_right (by omega) (by omega)
    rw [memRead, BitVec.toNat_or, hsh, ← Nat.shiftLeft_add_eq_or_of_lt hlow, Nat.shiftLeft_eq]

/-- A two-byte MemRead as a natural number. -/
theorem memRead_two_toNat (f : Nat → Byte) (a : Nat) :
    (memRead f a 2).toNat = (f a).toNat * 256 + (f (a + 1)).toNat := by
  rw [(memRead_toNat f a (k := 1) (by omega)).1, (memRead_toNat f (a + 1) (k := 0) (by omega)).1]
  simp [memRead]

/-- An error ends the command with its code and changes nothing else (R10, R121). -/
theorem raise_eq (c : ResultCode) (s : State) :
    raise c s = .next { s with err := c, inFlight := none } := rfl

/-- A completed command ends with ERR = 0 (R10). -/
theorem complete_eq (s : State) : complete s = .next { s with err := .ok, inFlight := none } := rfl

theorem inRange_iff (n : Nat) (s : State) :
    inRange n s = true ↔ s.len.toNat ≤ s.params.bufCap.toNat ∧ s.off.toNat + n ≤ s.len.toNat := by
  simp [inRange]

theorem lengthError_none_iff (hlen : Nat) (s : State) :
    lengthError hlen s = none ↔ hlen ≤ s.len.toNat ∧ s.len.toNat ≤ s.params.maxLen.toNat := by
  unfold lengthError
  split_ifs <;> simp <;> omega

end Sys2Proof.Machine
end

