-- ==== Sys2Proof/Laws/Accumulator.lean ====
section
/-! SUPPORT. The accumulator's functions: what a running sum adds, what they depend on, and fold steps as naturals. -/

namespace Sys2Proof.Machine

/-- The sum so far only adds. -/
theorem inetSumLoop_acc (byte : Nat → Byte) (k i : Nat) (acc : Word) :
    inetSumLoop byte k i acc = acc + inetSumLoop byte k i 0 := by
  induction k using Nat.strong_induction_on generalizing i acc with
  | _ k ih =>
    match k with
    | 0 => simp [inetSumLoop]
    | 1 => simp [inetSumLoop]
    | k + 2 =>
      simp only [inetSumLoop]
      rw [ih k (by omega), ih k (by omega) (acc := 0 + _)]
      simp [BitVec.add_assoc]

/-- One word of an InetSum. -/
theorem inetSum_step (byte : Nat → Byte) (a n : Nat) :
    inetSum byte a (n + 2) = memRead byte a 2 + inetSum byte (a + 2) n := by
  simp only [inetSum, inetSumLoop]
  rw [inetSumLoop_acc]
  simp

@[simp] theorem inetSum_zero (byte : Nat → Byte) (a : Nat) : inetSum byte a 0 = 0 := rfl

@[simp] theorem inetSum_one (byte : Nat → Byte) (a : Nat) :
    inetSum byte a 1 = (byte a).setWidth 32 <<< 8 := by
  simp [inetSum, inetSumLoop]

/-- InetSum depends only on the bytes of its range. -/
theorem inetSum_congr {f g : Nat → Byte} {a n : Nat} (h : ∀ x, a ≤ x → x < a + n → f x = g x) :
    inetSum f a n = inetSum g a n := by
  induction n using Nat.strong_induction_on generalizing a with
  | _ n ih =>
    match n with
    | 0 => rfl
    | 1 =>
      rw [inetSum_one, inetSum_one, h a (by omega) (by omega)]
    | n + 2 =>
      rw [inetSum_step, inetSum_step, memRead_congr fun x h1 h2 => h x h1 (by omega),
        ih n (by omega) fun x h1 h2 => h x (by omega) (by omega)]

/-- A fold step as naturals: the two halves are added, with no wrap (R74). -/
theorem foldStep_toNat (acc : Word) :
    (foldStep acc).toNat = acc.toNat / 0x10000 + acc.toNat % 0x10000 := by
  have hlt := acc.isLt
  have hhi : acc.toNat / 0x10000 < 0x10000 := by omega
  have hlo : acc.toNat % 0x10000 < 0x10000 := by omega
  simp only [foldStep, BitVec.toNat_add, BitVec.toNat_setWidth, BitVec.extractLsb'_toNat,
    Nat.shiftRight_eq_div_pow, pow_zero, Nat.div_one, Nat.reducePow]
  rw [Nat.mod_eq_of_lt hhi]
  generalize acc.toNat / 0x10000 = hi at *
  generalize acc.toNat % 0x10000 = lo at *
  omega

/-- The loop of Fold has ended exactly when the sum fits 16 bits. -/
theorem highHalf_zero_iff (acc : Word) : acc.extractLsb' 16 16 = 0#16 ↔ acc.toNat ≤ 0xFFFF := by
  have := acc.isLt
  rw [← BitVec.toNat_inj]
  simp [BitVec.extractLsb'_toNat, Nat.shiftRight_eq_div_pow]
  omega

/-- The complement of a folded sum as a natural. -/
theorem complement16_toNat (f : Word) : (complement16 f).toNat = 0xFFFF - f.toNat % 0x10000 := by
  simp [complement16, BitVec.toNat_not]

end Sys2Proof.Machine
end

