-- ==== Sys2Proof/Laws/Exec.lean ====
section
/-! SUPPORT. One spec lemma per shared operation of the marshalers: which fields it can change, which bytes of BUF, and
that it keeps BUF's canonical form. -/

namespace Sys2Proof.Machine

/-- The end of a command that changed ACC and BUF only. -/
theorem endCommand_of_bufAcc {s t : State} (h : t = { s with buf := t.buf, acc := t.acc }) (c : ResultCode) :
    t.endCommand c = { s with buf := t.buf, acc := t.acc, err := c, inFlight := none } := by
  generalize t.buf = b at *
  generalize t.acc = w at *
  subst h
  rfl

/-- The end of a command that changed BUF only. -/
theorem endCommand_of_buf {s t : State} (h : t = { s with buf := t.buf }) (c : ResultCode) :
    t.endCommand c = { s with buf := t.buf, err := c, inFlight := none } := by
  generalize t.buf = b at *
  subst h
  rfl

/-- Summing and embedding a checksum changes ACC and BUF and nothing else. -/
theorem embedChecksum_eq (n field : Nat) (s : State) :
    embedChecksum n field s =
      { s with buf := (embedChecksum n field s).buf, acc := fold (inetSum s.readByte 0 n) } := by
  simp only [embedChecksum]
  rw [memWrite_eq]
  rfl

/-- Embedding a checksum writes the two bytes of its field only. -/
theorem embedChecksum_outside {n field x : Nat} {s : State} (h : x < field ∨ field + 2 ≤ x) :
    (embedChecksum n field s).readByte x = s.readByte x := by
  simp only [embedChecksum]
  rw [readByte_memWrite_outside h, setAcc_readByte]

/-- The header writes before the sum change BUF and nothing else. -/
theorem ip4Fields_eq (p : Byte) (s : State) : ip4Fields p s = { s with buf := (ip4Fields p s).buf } := by
  apply State.ext <;> simp [ip4Fields]

theorem ip4Fields_outside {p : Byte} {s : State} {x : Nat} (h : 20 ≤ x) :
    (ip4Fields p s).readByte x = s.readByte x := by
  simp only [ip4Fields]
  repeat rw [readByte_memWrite_outside (by omega)]

/-- IP4Fill changes ACC and BUF and nothing else (R93). -/
theorem ip4Fill_eq (p : Byte) (s : State) :
    ip4Fill p s = { s with buf := (ip4Fill p s).buf, acc := (ip4Fill p s).acc } := by
  have h1 := embedChecksum_eq 20 10 (ip4Fields p s)
  have h2 := ip4Fields_eq p s
  simp only [ip4Fill]
  rw [h1, h2]

/-- IP4Fill writes BUF[0..19] only (R93, R104). -/
theorem ip4Fill_outside {p : Byte} {s : State} {x : Nat} (h : 20 ≤ x) :
    (ip4Fill p s).readByte x = s.readByte x := by
  rw [ip4Fill, embedChecksum_outside (.inr (by omega)), ip4Fields_outside h]

/-- The pseudo-header changes BUF and nothing else (R97). -/
theorem ip4Pseudo_eq (s : State) : ip4Pseudo s = { s with buf := (ip4Pseudo s).buf } := by
  apply State.ext <;> simp [ip4Pseudo]

theorem ip4Pseudo_outside {s : State} {x : Nat} (h : 20 ≤ x) :
    (ip4Pseudo s).readByte x = s.readByte x := by
  simp only [ip4Pseudo]
  repeat rw [readByte_memWrite_outside (by omega)]

/-- The ICMP writes before the whole-buffer sum change ACC and BUF and nothing else (R108). -/
theorem icmp4Fields_eq (s : State) :
    icmp4Fields s = { s with buf := (icmp4Fields s).buf, acc := (icmp4Fields s).acc } := by
  simp only [icmp4Fields]
  rw [memWrite_eq, ip4Fill_eq]
  apply State.ext <;> simp

theorem icmp4Fields_outside {s : State} {x : Nat} (h : 24 ≤ x) :
    (icmp4Fields s).readByte x = s.readByte x := by
  simp only [icmp4Fields]
  rw [readByte_memWrite_outside (by omega), ip4Fill_outside (by omega), readByte_memWrite_outside (by omega),
    readByte_memWrite_outside (by omega)]

section CanonicalForm
variable {s : State}

theorem embedChecksum_wf (h : s.buf.wf) (n field : Nat) : (embedChecksum n field s).buf.wf :=
  memWrite_buf_wf (s := s.setAcc _) h field 2 _

theorem embedChecksum_below {lim : Nat} (h : ∀ c ∈ s.buf, c.1 < lim) (n : Nat) {field : Nat}
    (hf : field + 2 ≤ lim) : ∀ c ∈ (embedChecksum n field s).buf, c.1 < lim :=
  memWrite_buf_below (s := s.setAcc _) h field 2 _ hf

theorem ip4Fields_wf (h : s.buf.wf) (p : Byte) : (ip4Fields p s).buf.wf := by
  simp only [ip4Fields]
  repeat refine memWrite_buf_wf ?_ _ _ _
  exact h

theorem ip4Fields_below {lim : Nat} (h : ∀ c ∈ s.buf, c.1 < lim) (hl : 20 ≤ lim) (p : Byte) :
    ∀ c ∈ (ip4Fields p s).buf, c.1 < lim := by
  simp only [ip4Fields]
  repeat refine memWrite_buf_below ?_ _ _ _ (by omega)
  exact h

theorem ip4Pseudo_wf (h : s.buf.wf) : (ip4Pseudo s).buf.wf := by
  simp only [ip4Pseudo]
  repeat refine memWrite_buf_wf ?_ _ _ _
  exact h

theorem ip4Pseudo_below {lim : Nat} (h : ∀ c ∈ s.buf, c.1 < lim) (hl : 20 ≤ lim) :
    ∀ c ∈ (ip4Pseudo s).buf, c.1 < lim := by
  simp only [ip4Pseudo]
  repeat refine memWrite_buf_below ?_ _ _ _ (by omega)
  exact h

end CanonicalForm

end Sys2Proof.Machine
end

