-- ==== Sys2Proof/Laws/PerInstr.lean ====
section
/-! SUPPORT. What holds of every command as syntax, one lemma per constructor (spec/30_encoding.md R61, R63, R65). -/

namespace Sys2Proof.Laws.LegalEncoding

/-- The command is well formed, its word is legal, and the word's fields are RSV = 0 and the two halves of its opcode
(R61). -/
def Statement (i : Instr) : Prop :=
  i.wf = true ∧ legalWord (encode i) = true ∧ rsvField (encode i) = 0 ∧
    unitField (encode i) ++ opField (encode i) = opcode i

theorem csum : Statement .csum := by unfold Statement; decide
theorem get16 : Statement .get16 := by unfold Statement; decide
theorem get32 : Statement .get32 := by unfold Statement; decide
theorem put16 : Statement .put16 := by unfold Statement; decide
theorem put32 : Statement .put32 := by unfold Statement; decide
theorem ip4Len : Statement .ip4Len := by unfold Statement; decide
theorem ip4Marshal : Statement .ip4Marshal := by unfold Statement; decide
theorem ip4MarshalPseudo : Statement .ip4MarshalPseudo := by unfold Statement; decide
theorem ip4ToResponse : Statement .ip4ToResponse := by unfold Statement; decide
theorem icmp4Len : Statement .icmp4Len := by unfold Statement; decide
theorem icmp4Marshal : Statement .icmp4Marshal := by unfold Statement; decide
theorem icmp4ToResponse : Statement .icmp4ToResponse := by unfold Statement; decide

end Sys2Proof.Laws.LegalEncoding
end

