-- ==== Sys2Proof/Laws/Step.lean ====
section
/-! SUPPORT. What a step can be, said once: who moves, and what each input leads to. -/

namespace Sys2Proof.Machine

/-- A step that answers a next state starts from a safe state and is the block's turn or the next input. -/
theorem step_next_cases {s t : State} (h : step s = .next t) :
    s.hostFault = none ∧
      ((s.inputs = [] ∧ blockTurn s = .next t) ∨
        ∃ e rest, s.inputs = e :: rest ∧ handle e { s with inputs := rest } = .next t) := by
  unfold step at h
  split at h
  · cases h
  · rename_i hf
    refine ⟨hf, ?_⟩
    split at h
    · rename_i hi
      exact .inl ⟨hi, h⟩
    · rename_i e rest hi
      exact .inr ⟨e, rest, hi, h⟩

/-- The block's turn keeps an idle state, or runs the command in flight, or ends an illegal word (R62, R129). -/
theorem blockTurn_cases (s : State) :
    (s.inFlight = none ∧ blockTurn s = .next s) ∨
      (∃ w i, s.inFlight = some w ∧ decode w = .ok i ∧ blockTurn s = exec i s) ∨
        ∃ w r, s.inFlight = some w ∧ decode w = .error r ∧ blockTurn s = .next (s.endCommand .illegalCmd) := by
  unfold blockTurn runWord
  cases hf : s.inFlight with
  | none => exact .inl ⟨rfl, rfl⟩
  | some w =>
    cases hd : decode w with
    | ok i => exact .inr (.inl ⟨w, i, rfl, hd, by simp [hd]⟩)
    | error r => exact .inr (.inr ⟨w, r, rfl, hd, by simp [hd, raise]⟩)

/-- A host access records a fault, or does what an allowed access does (R138). -/
theorem hostAccess_cases (a : Access) (s : State) :
    (∃ f, hostAccess a s = recordFault f s) ∨
      ∃ op, a.resolve s.params.bufCap.toNat = .ok op ∧ mayAccess op s = true ∧ hostAccess a s = performOp op s := by
  unfold hostAccess
  cases hr : a.resolve s.params.bufCap.toNat with
  | error f => exact .inl ⟨f, rfl⟩
  | ok op =>
    by_cases hm : mayAccess op s = true
    · exact .inr ⟨op, rfl, hm, by simp [hm]⟩
    · exact .inl ⟨.whileBusy, by simp [hm]⟩

end Sys2Proof.Machine
end

