-- ==== Sys2Proof/Tests/Slice0.lean ====
section
/-! SUPPORT. The model's own tests: words written out from spec/30_encoding.md, vectors of spec/95_test_vectors.md, one
step each, and a witness for the hypotheses of every statement that has some. -/

namespace Sys2Proof.Tests

open Sys2Proof.Machine

/-! ## Well-formedness: one ill-formed term per check, refused -/

/-- DC6: reserved bit 8 set, opcode assigned. -/
theorem test_wf_reserved_bit_refused : legalWord 0x00000111 = false := by decide
/-- DC2: the first unassigned opcode after UNIT 0. -/
theorem test_wf_unassigned_opcode_refused : legalWord 0x00000006 = false := by decide
theorem test_wf_legal_word_accepted : legalWord 0x00000022 = true := by decide
/-- MAX_LEN below 24 (R7). -/
theorem test_wf_params_small_refused : ¬ Params.wf ⟨23, 65535, 0⟩ := by decide
/-- MAX_LEN above 65535 (R7). -/
theorem test_wf_params_large_refused : ¬ Params.wf ⟨65536, 65536, 0⟩ := by decide
/-- BUF_CAP below MAX_LEN (R7). -/
theorem test_wf_params_cap_small_refused : ¬ Params.wf ⟨100, 99, 0⟩ := by decide
/-- BUF_CAP above 131074 (R7). -/
theorem test_wf_params_cap_large_refused : ¬ Params.wf ⟨65535, 131075, 0⟩ := by decide
theorem test_wf_params_default : Params.wf Params.default := by decide

/-! ## Decoding: RSV (24 bits), UNIT (4 bits), OP (4 bits) from the table of R63 -/

theorem test_decode_csum : decode 0b000000000000000000000000_0000_0001#32 = .ok .csum := by rfl
theorem test_decode_get16 : decode 0b000000000000000000000000_0000_0010#32 = .ok .get16 := by rfl
theorem test_decode_get32 : decode 0b000000000000000000000000_0000_0011#32 = .ok .get32 := by rfl
theorem test_decode_put16 : decode 0b000000000000000000000000_0000_0100#32 = .ok .put16 := by rfl
theorem test_decode_put32 : decode 0b000000000000000000000000_0000_0101#32 = .ok .put32 := by rfl
theorem test_decode_ip4Len : decode 0b000000000000000000000000_0001_0000#32 = .ok .ip4Len := by rfl
theorem test_decode_ip4Marshal : decode 0b000000000000000000000000_0001_0001#32 = .ok .ip4Marshal := by rfl
theorem test_decode_ip4MarshalPseudo :
    decode 0b000000000000000000000000_0001_0010#32 = .ok .ip4MarshalPseudo := by rfl
theorem test_decode_ip4ToResponse : decode 0b000000000000000000000000_0001_0011#32 = .ok .ip4ToResponse := by rfl
theorem test_decode_icmp4Len : decode 0b000000000000000000000000_0010_0000#32 = .ok .icmp4Len := by rfl
theorem test_decode_icmp4Marshal : decode 0b000000000000000000000000_0010_0001#32 = .ok .icmp4Marshal := by rfl
theorem test_decode_icmp4ToResponse : decode 0b000000000000000000000000_0010_0010#32 = .ok .icmp4ToResponse := by rfl

/-- DC1, DC3, DC4, DC5, DC7: the words of the spec's decode vectors that are no command. -/
theorem test_decode_illegal :
    [0x00000000, 0x00000014, 0x00000023, 0x000000FF, 0x80000001].map (decodeTableWord 32) =
      [none, none, none, none, none] := by decide

/-! ## Commands: vectors of spec/95_test_vectors.md -/

/-- A field of the next state, if there is one. -/
def after {α : Type} (o : Host.Outcome State Fault Refusal) (f : State → α) : Option α :=
  match o with
  | .next t => some (f t)
  | .fault _ => none
  | .refused _ => none

/-- The reset state with the bytes given at address 0 and upwards, and LEN their number. -/
def withBytes (bs : List Byte) : State :=
  { State.reset with buf := (List.range bs.length).zip bs, len := BitVec.ofNat 32 bs.length }

/-- CS6: two folds. -/
theorem test_csum_two_folds :
    after (exec .csum { withBytes [0xFF, 0xFF, 0xFF, 0xFF, 0x00, 0x01] with cnt := 6 }) (fun t => (t.acc, t.result)) =
      some (0x00000001, 0x0000FFFE) := by decide
/-- CS9: an odd OFF pairs from OFF, an odd trailing byte is the high byte. -/
theorem test_csum_odd_offset :
    after (exec .csum { withBytes [0x99, 0x12, 0x34, 0x56] with off := 1, cnt := 3 }) (fun t => (t.acc, t.result)) =
      some (0x00006834, 0x000097CB) := by decide

/-- CD1. -/
theorem test_get16 :
    after (exec .get16 { withBytes [0x99, 0x12, 0x34, 0x56] with off := 1 }) (fun t => (t.result, t.err)) =
      some (0x00001234, .ok) := by decide
/-- CD8: OFF + 2 does not wrap. -/
theorem test_get16_no_wrap :
    after (exec .get16 { State.reset with len := 20, off := 0xFFFFFFFF }) (fun t => (t.result, t.err)) =
      some (0, .rangeError) := by decide
/-- CD3. -/
theorem test_get32 :
    after (exec .get32 { withBytes [0x00, 0x11, 0x22, 0x33, 0x44, 0x55] with off := 1 }) (fun t => (t.result, t.err)) =
      some (0x11223344, .ok) := by decide
/-- CD4. -/
theorem test_put16 :
    after (exec .put16 { State.reset with len := 24, off := 22, val := 0x12345678 }) (fun t => (t.buf, t.err)) =
      some ([(22, 0x56), (23, 0x78)], .ok) := by decide
/-- CD5. -/
theorem test_put32 :
    after (exec .put32 { State.reset with len := 20, off := 12, val := 0xC0A80001 }) (fun t => (t.buf, t.err)) =
      some ([(12, 0xC0), (13, 0xA8), (14, 0x00), (15, 0x01)], .ok) := by decide
/-- CD7: no byte is written on a range error. -/
theorem test_put32_range_error :
    after (exec .put32 { State.reset with len := 20, off := 17, val := 0xFFFFFFFF }) (fun t => (t.buf, t.err)) =
      some ([], .rangeError) := by decide

/-- LN-1. -/
theorem test_ip4Len : after (exec .ip4Len State.reset) (fun t => t.result) = some 0x00000014 := by decide
/-- IP-1. -/
theorem test_ip4Marshal :
    after (exec .ip4Marshal { State.reset with
        len := 20, proto := 6, ipid := 0x1234, srcip := 0x0A000001, dstip := 0x0A000002 })
      (fun t => (t.buf.map Prod.snd, t.acc)) =
      some ([0x45, 0x00, 0x00, 0x14, 0x12, 0x34, 0x00, 0x00, 0x40, 0x06, 0x54, 0xAE,
        0x0A, 0x00, 0x00, 0x01, 0x0A, 0x00, 0x00, 0x02], 0x0000AB51) := by decide
/-- IP-E2. -/
theorem test_ip4Marshal_too_large :
    after (exec .ip4Marshal { State.reset with len := 65536, proto := 6 }) (fun t => (t.buf, t.err)) =
      some ([], .packetTooLarge) := by decide
/-- PS-3. -/
theorem test_ip4MarshalPseudo :
    after (exec .ip4MarshalPseudo { State.reset with
        len := 65535, proto := 6, srcip := 0x0A000001, dstip := 0x0A000002 }) (fun t => (t.buf.map Prod.snd, t.acc)) =
      some ([0x00, 0x00, 0x00, 0x00, 0x00, 0x00, 0x00, 0x00, 0x0A, 0x00, 0x00, 0x01, 0x0A, 0x00, 0x00, 0x02,
        0x00, 0x06, 0xFF, 0xEB], 0) := by decide
/-- TR-1. -/
theorem test_ip4ToResponse :
    after (exec .ip4ToResponse { State.reset with ipid := 0x1234, srcip := 0x0A000001, dstip := 0x0A000002 })
      (fun t => (t.ipid, t.srcip, t.dstip)) = some (0xEDCB, 0x0A000002, 0x0A000001) := by decide

/-- LN-2. -/
theorem test_icmp4Len : after (exec .icmp4Len State.reset) (fun t => t.result) = some 0x00000018 := by decide
/-- IC-2, with PROTO = 6 as in IC-6: an odd length, the protocol byte forced, PROTO kept. -/
theorem test_icmp4Marshal :
    after (exec .icmp4Marshal { State.reset with
        len := 25, proto := 6, ipid := 1, srcip := 0x0A000001, dstip := 0x0A000002, icmpType := 8,
        buf := [(22, 0x12), (23, 0x34), (24, 0x61)] })
      (fun t => (t.buf.map Prod.snd, t.acc, t.proto)) =
      some ([0x45, 0x00, 0x00, 0x19, 0x00, 0x01, 0x00, 0x00, 0x40, 0x01, 0x66, 0xE1, 0x0A, 0x00, 0x00, 0x01,
        0x0A, 0x00, 0x00, 0x02, 0x08, 0x00, 0x96, 0xFF, 0x61], 0x00006900, 6) := by decide
/-- IC-E1: the threshold is 24 (conflict C1). -/
theorem test_icmp4Marshal_too_small :
    after (exec .icmp4Marshal { State.reset with len := 23, icmpType := 8 }) (fun t => (t.buf, t.err)) =
      some ([], .bufferTooSmall) := by decide
/-- ICR-2: no type check (R112). -/
theorem test_icmp4ToResponse :
    after (exec .icmp4ToResponse { State.reset with
        icmpType := 3, icmpCode := 1, ipid := 0x1234, srcip := 0x0A000001, dstip := 0x0A000002 })
      (fun t => (t.icmpType, t.icmpCode, t.ipid, t.srcip, t.dstip)) =
      some (0, 0, 0xEDCB, 0x0A000002, 0x0A000001) := by decide

/-! ## The host -/

/-- R15, R16 of section 2.5: wr PROTO, 0x12345678. -/
theorem test_write_proto_truncates :
    after (step { State.reset with inputs := [line (.wr .proto 0x12345678)] }) (fun t => regRead .proto t) =
      some 0x00000078 := by decide
/-- A CMD write of an illegal word, then the block's turn: STATUS reads 0x40 (DC6). -/
theorem test_illegal_word_status :
    after (step (State.reset.withFetchWord 32 0x111)) statusWord = some 0x00000040 := by decide
/-- While busy STATUS reads 1, and a RESULT read is a violation (R138). -/
theorem test_busy :
    after (step { State.reset with inFlight := some 1, inputs := [line (.rd .status)] }) (fun t => t.readData) =
        some (some 1) ∧
      after (step { State.reset with inFlight := some 1, inputs := [line (.rd .result)] }) (fun t => t.hostFault) =
        some (some .whileBusy) := by decide
/-- A misaligned register read is refused (R42). -/
theorem test_misaligned_refused :
    after (step { State.reset with inputs := [.host ⟨.read, .reg, .w32, 0x06, 0⟩] }) (fun t => t.hostFault) =
      some (some .registerForm) := by decide
/-- `do ICMP4_LEN` (R69): CMD write, the block's turn, one STATUS read. -/
theorem test_do_is_three_inputs :
    doLine .icmp4Len = [.host ⟨.write, .reg, .w32, 0x00, 0x20⟩, .block, .host ⟨.read, .reg, .w32, 0x04, 0⟩] := by
  decide

/-! ## Witnesses: concrete states and operands that meet the hypotheses of each statement, at the boundaries of each of
its clauses -/

/-- Reset with LEN, OFF and CNT set. -/
def ranged (len off cnt : Word) : State := { State.reset with len := len, off := off, cnt := cnt }

/-- Reset with the inputs given. -/
def withInputs (es : List Input) : State := { State.reset with inputs := es }

/-- Reset with CSUM in flight and the inputs given. -/
def busyWith (es : List Input) : State := { State.reset with inFlight := some 0x01, inputs := es }

theorem witness_DecodeAndEncodeAgree : decode 0x00000022 = .ok .icmp4ToResponse := by rfl
theorem witness_IllegalWordsAreTheComplement :
    (∃ r, decode 0x00000100 = .error r) ∧ (∃ r, decode 0x00000000 = .error r) ∧ (∃ r, decode 0x00000006 = .error r) ∧
      (∃ r, decode 0x0000001F = .error r) ∧ ∃ r, decode 0x00000023 = .error r :=
  ⟨⟨_, rfl⟩, ⟨_, rfl⟩, ⟨_, rfl⟩, ⟨_, rfl⟩, ⟨_, rfl⟩⟩
theorem witness_ScriptLinesAreTransactions : 65534 < 65535 ∧ 0 < 1 := by decide

theorem witness_StepRunsDecodedCommand :
    (busyWith []).safe ∧ (busyWith []).blockMovesNext ∧ (busyWith [.block]).blockMovesNext ∧
      (busyWith [.block]).safe ∧ (busyWith []).inFlight = some 0x01 ∧ decode 0x01 = .ok .csum :=
  ⟨rfl, by decide, by decide, rfl, rfl, rfl⟩
theorem witness_IllegalWordChangesOnlyErr :
    (let s : State := { State.reset with inFlight := some 0x101 };
      s.safe ∧ s.blockMovesNext ∧ s.inFlight = some 0x101 ∧ (0x101#32).toNat / 2 ^ 8 ≠ 0) ∧
    (let s : State := { State.reset with inFlight := some 0x23, inputs := [.block] };
      s.safe ∧ s.blockMovesNext ∧ s.inFlight = some 0x23 ∧
        (0x23#32).toNat % 2 ^ 8 ∉
          [0x01, 0x02, 0x03, 0x04, 0x05, 0x10, 0x11, 0x12, 0x13, 0x20, 0x21, 0x22]) := by decide
theorem witness_CmdWriteStartsTheWord :
    (let s := withInputs [.host ⟨.write, .reg, .w32, 0x00, 0x20⟩];
      s.safe ∧ s.inputs = .host ⟨.write, .reg, .w32, 0x00, 0x20⟩ :: [] ∧ s.inFlight = none) ∧
    (let s := busyWith [.host ⟨.write, .reg, .w32, 0x00, 0x20⟩];
      s.safe ∧ s.inputs = .host ⟨.write, .reg, .w32, 0x00, 0x20⟩ :: [] ∧ s.inFlight ≠ none) := by decide
theorem witness_CommandIsOneTransition :
    let s := withInputs (cmdLine .icmp4Marshal)
    s.ready ∧ s.inputs = .host ⟨.write, .reg, .w32, 0x00, encode .icmp4Marshal⟩ :: .block :: [] := by decide
theorem witness_IdleBlockKeepsEverything :
    State.reset.ready ∧ State.reset.blockMovesNext ∧ (withInputs [.block]).ready ∧
      (withInputs [.block]).blockMovesNext := by decide

theorem witness_InetSumIsTheWordSum : 131074 ≤ 131074 := by decide
theorem witness_FoldIsTheCarryLoop :
    (0xFFFF#32).toNat ≤ 0xFFFF ∧ 0xFFFF < (0x10000#32).toNat ∧ (0x1FFFE#32).toNat ≤ 0x1FFFE := by decide
theorem witness_ChecksumClosedForm : 131074 ≤ 131074 ∧ 0 ≤ 131074 := by decide
/-- The CS vectors' style of buffer, with the field at an even distance. -/
theorem witness_ChecksumSelfValidates :
    let s := withBytes [0x12, 0x34, 0x00, 0x00]
    4 ≤ 131074 ∧ 2 * 1 + 1 < 4 ∧ s.readByte (0 + 2 * 1) = 0 ∧ s.readByte (0 + 2 * 1 + 1) = 0 ∧
      fold (inetSum s.readByte 0 4) ≠ 0 := by decide
theorem witness_ChecksumSplits :
    2 % 2 = 0 ∧ wordSum (fun _ => 0xFF) 0 (2 + 6) < 2 ^ 32 ∧ (0xFFFF#32).toNat ≤ 0xFFFF ∧ (0#32).toNat ≤ 0xFFFF := by decide
theorem witness_CsumComputesTheChecksum :
    State.reset.params.wf ∧
      (let s := ranged 65536 0 0;
        s.params.wf ∧ s.params.bufCap.toNat < s.len.toNat) ∧
      (let s := ranged 20 15 6;
        s.params.wf ∧ s.len.toNat < s.off.toNat + s.cnt.toNat) ∧
      (let s := ranged 65535 0 65535;
        s.params.wf ∧ s.len.toNat ≤ s.params.bufCap.toNat ∧ s.off.toNat + s.cnt.toNat ≤ s.len.toNat) := by decide

theorem witness_Get16ReadsBigEndian :
    (let s := ranged 65536 0 0;
      s.params.bufCap.toNat < s.len.toNat) ∧
    (let s := ranged 20 19 0;
      s.len.toNat < s.off.toNat + 2) ∧
    (let s := ranged 20 18 0;
      s.len.toNat ≤ s.params.bufCap.toNat ∧ s.off.toNat + 2 ≤ s.len.toNat) := by decide
theorem witness_Get32ReadsBigEndian :
    (let s := ranged 65536 0 0;
      s.params.bufCap.toNat < s.len.toNat) ∧
    (let s := ranged 20 17 0;
      s.len.toNat < s.off.toNat + 4) ∧
    (let s := ranged 20 16 0;
      s.len.toNat ≤ s.params.bufCap.toNat ∧ s.off.toNat + 4 ≤ s.len.toNat) := by decide
theorem witness_Put16WritesBigEndian :
    (let s := ranged 65536 0 0;
      s.params.bufCap.toNat < s.len.toNat) ∧
    (let s := ranged 20 19 0;
      s.len.toNat < s.off.toNat + 2) ∧
    (let s := ranged 20 18 0;
      s.len.toNat ≤ s.params.bufCap.toNat ∧ s.off.toNat + 2 ≤ s.len.toNat) := by decide
theorem witness_Put32WritesBigEndian :
    (let s := ranged 65536 0 0;
      s.params.bufCap.toNat < s.len.toNat) ∧
    (let s := ranged 20 17 0;
      s.len.toNat < s.off.toNat + 4) ∧
    (let s := ranged 20 16 0;
      s.len.toNat ≤ s.params.bufCap.toNat ∧ s.off.toNat + 4 ≤ s.len.toNat) := by decide
theorem witness_CodecRoundTrips :
    (let s := ranged 65535 65531 0;
      s.len.toNat ≤ s.params.bufCap.toNat ∧ s.off.toNat + 4 ≤ s.len.toNat) ∧
    (let s := ranged 65535 65533 0;
      s.len.toNat ≤ s.params.bufCap.toNat ∧ s.off.toNat + 2 ≤ s.len.toNat) := by decide

theorem witness_Ip4MarshalWritesTheHeader :
    (ranged 19 0 0).len.toNat < 20 ∧
    (let s := ranged 65536 0 0;
      20 ≤ s.len.toNat ∧ s.params.maxLen.toNat < s.len.toNat) ∧
    (let s := ranged 20 0 0;
      20 ≤ s.len.toNat ∧ s.len.toNat ≤ s.params.maxLen.toNat) ∧
    (let s := ranged 65535 0 0;
      20 ≤ s.len.toNat ∧ s.len.toNat ≤ s.params.maxLen.toNat) := by decide
theorem witness_PseudoHeaderIsWritten :
    (ranged 19 0 0).len.toNat < 20 ∧
    (let s := ranged 65536 0 0;
      20 ≤ s.len.toNat ∧ s.params.maxLen.toNat < s.len.toNat) ∧
    (let s := ranged 20 0 0;
      20 ≤ s.len.toNat ∧ s.len.toNat ≤ s.params.maxLen.toNat) ∧
    (let s := ranged 65535 0 0;
      20 ≤ s.len.toNat ∧ s.len.toNat ≤ s.params.maxLen.toNat) := by decide
theorem witness_Ip4HeaderSelfValidates :
    let s := ranged 20 0 0
    20 ≤ s.len.toNat ∧ s.len.toNat ≤ s.params.maxLen.toNat := by decide
/-- Two states that differ in BUF, OFF and MAX_LEN. -/
theorem witness_Ip4MarshalIsDeterministic :
    let s := ranged 24 0 0
    let s' : State := { ranged 24 7 0 with params := ⟨24, 24, 0⟩, buf := [(0, 0x99)] }
    s' ≠ s ∧ s'.len = s.len ∧ s'.proto = s.proto ∧ s'.ipid = s.ipid ∧ s'.srcip = s.srcip ∧ s'.dstip = s.dstip ∧
      20 ≤ s.len.toNat ∧ s.len.toNat ≤ s.params.maxLen.toNat ∧ s.len.toNat ≤ s'.params.maxLen.toNat := by decide
theorem witness_LengthFieldsAreExact :
    let s := ranged 65535 0 0
    s.params.wf ∧ 20 ≤ s.len.toNat ∧ s.len.toNat ≤ s.params.maxLen.toNat := by decide

theorem witness_Icmp4MarshalWritesBothHeaders :
    (let s := ranged 23 0 0;
      s.params.wf ∧ s.len.toNat < 24) ∧
    (let s := ranged 65536 0 0;
      s.params.wf ∧ s.params.maxLen.toNat < s.len.toNat) ∧
    (let s := ranged 24 0 0;
      s.params.wf ∧ 24 ≤ s.len.toNat ∧ s.len.toNat ≤ s.params.maxLen.toNat) ∧
    (let s := ranged 65535 0 0;
      s.params.wf ∧ 24 ≤ s.len.toNat ∧ s.len.toNat ≤ s.params.maxLen.toNat) := by decide
theorem witness_Icmp4HeaderSelfValidates :
    let s := ranged 24 0 0
    s.params.wf ∧ 24 ≤ s.len.toNat ∧ s.len.toNat ≤ s.params.maxLen.toNat := by decide
/-- Both cases of p: every word of the ICMP part 0, and a type of 8. -/
theorem witness_WholeBufferSumMatchesIcmpPart :
    (let s := ranged 24 0 0;
      s.params.wf ∧ 24 ≤ s.len.toNat ∧ s.len.toNat ≤ s.params.maxLen.toNat ∧
        0 = s.icmpType.toNat * 256 + s.icmpCode.toNat + wordSum s.readByte 24 (s.len.toNat - 24)) ∧
    (let s : State := { ranged 24 0 0 with icmpType := 8 };
      s.params.wf ∧ 24 ≤ s.len.toNat ∧ s.len.toNat ≤ s.params.maxLen.toNat ∧
        2048 = s.icmpType.toNat * 256 + s.icmpCode.toNat + wordSum s.readByte 24 (s.len.toNat - 24)) := by decide
theorem witness_IcmpForcesByteNineNotProto :
    let s : State := { ranged 24 0 0 with proto := 6 }
    24 ≤ s.len.toNat ∧ s.len.toNat ≤ s.params.maxLen.toNat := by decide

theorem witness_ErrorWritesNothingButStatus :
    (∃ t, exec .icmp4Marshal (ranged 23 0 0) = .next t ∧ t.err ≠ .ok) ∧
      ∃ t, runWord 0x23 State.reset = .next t ∧ t.err ≠ .ok :=
  ⟨⟨_, rfl, by decide⟩, _, rfl, by decide⟩
theorem witness_CommandsWriteOnlyTheirRegisters :
    (∃ t, exec .ip4ToResponse State.reset = .next t) ∧ Instr.ip4ToResponse ∉ [.csum, .get16, .get32, .ip4Len, .icmp4Len] ∧
      Instr.ip4ToResponse ∉ [.csum, .ip4Marshal, .icmp4Marshal] ∧ Instr.ip4ToResponse ≠ .icmp4ToResponse ∧
      (∃ t, exec .ip4Len State.reset = .next t) ∧ Instr.ip4Len ∉ [.ip4ToResponse, .icmp4ToResponse] :=
  ⟨⟨_, rfl⟩, by decide, by decide, by decide, ⟨_, rfl⟩, by decide⟩
theorem witness_CommandsStoreOnlyListedBytes :
    ∃ t, exec .put16 (ranged 20 18 0) = .next t ∧ (ranged 20 18 0).params.wf ∧ t.err = .ok ∧
      19 ∈ mayWrite .put16 (ranged 20 18 0) ∧ 17 ∉ mayWrite .put16 (ranged 20 18 0) :=
  ⟨_, rfl, by decide, by decide, by decide, by decide⟩
/-- Two states that differ in the byte at LEN only. -/
theorem witness_BytesPastLenAreNotRead :
    let s : State := { ranged 2 0 2 with buf := [(0, 0x12), (1, 0x34)] }
    let s' : State := { ranged 2 0 2 with buf := [(0, 0x12), (1, 0x34), (2, 0x56)] }
    s' ≠ s ∧ s' = { s with buf := s'.buf, powerCycle := s'.powerCycle } ∧
      ∀ a < s.len.toNat, s'.readByte a = s.readByte a := by decide

/-- The offsets and values of the statement's list. -/
def regTable (s : State) : List (Nat × Word) :=
  [(0x00, 0), (0x04, statusWord s), (0x08, s.len), (0x0C, s.off), (0x10, s.cnt), (0x14, s.val),
    (0x18, s.result), (0x1C, s.acc), (0x20, BitVec.ofNat 32 s.proto.toNat), (0x24, BitVec.ofNat 32 s.ipid.toNat),
    (0x28, s.srcip), (0x2C, s.dstip), (0x30, BitVec.ofNat 32 s.icmpType.toNat),
    (0x34, BitVec.ofNat 32 s.icmpCode.toNat), (0x38, s.params.maxLen), (0x3C, s.params.bufCap)]

/-- The first and the last offset. -/
theorem witness_RegisterReadsFollowTheMap :
    (let s := withInputs [.host ⟨.read, .reg, .w32, 0x00, 0⟩];
      s.ready ∧ s.inputs = .host ⟨.read, .reg, .w32, 0x00, 0⟩ :: [] ∧ (0x00, 0) ∈ regTable s) ∧
    (let s := withInputs [.host ⟨.read, .reg, .w32, 0x3C, 0⟩];
      s.ready ∧ s.inputs = .host ⟨.read, .reg, .w32, 0x3C, 0⟩ :: [] ∧ (0x3C, 65535) ∈ regTable s) := by decide
theorem witness_RegisterWriteThenRead :
    (let s := withInputs [line (.wr .ipid 0xFFFFFFFF), line (.rd .ipid)];
      s.ready ∧ Reg.ipid ≠ .cmd ∧ s.inputs = line (.wr .ipid 0xFFFFFFFF) :: line (.rd .ipid) :: []) ∧
    (let s := withInputs [line (.wr .status 0xFFFFFFFF), line (.rd .status)];
      s.ready ∧ Reg.status ≠ .cmd ∧ s.inputs = line (.wr .status 0xFFFFFFFF) :: line (.rd .status) :: []) := by decide
theorem witness_HostReachesEveryBufByte :
    (let s := withInputs [.host ⟨.write, .buf, .w8, 65534, 0xFFFFFF12⟩];
      s.ready ∧ 65534 < s.params.bufCap.toNat ∧
        s.inputs = .host ⟨.write, .buf, .w8, 65534, 0xFFFFFF12⟩ :: []) ∧
    (let s := withInputs [.host ⟨.read, .buf, .w8, 65534, 0⟩];
      s.ready ∧ 65534 < s.params.bufCap.toNat ∧ s.inputs = .host ⟨.read, .buf, .w8, 65534, 0⟩ :: []) := by decide
/-- A 16-bit, a misaligned and a too high register access; a 32-bit BUF access and one at BUF_CAP. -/
theorem witness_RefusedAccessRecordsAFault :
    (∀ a ∈ ([⟨.read, .reg, .w16, 0x04, 0⟩, ⟨.write, .reg, .w32, 0x01, 0⟩, ⟨.read, .reg, .w32, 0x40, 0⟩] : List Access),
      (withInputs [.host a]).safe ∧ (withInputs [.host a]).inputs = .host a :: [] ∧
        a.space = .reg ∧ (a.width ≠ .w32 ∨ a.addr % 4 ≠ 0 ∨ 0x40 ≤ a.addr)) ∧
    (∀ a ∈ ([⟨.read, .buf, .w32, 0, 0⟩, ⟨.write, .buf, .w8, 65535, 0⟩] : List Access),
      (withInputs [.host a]).safe ∧ (withInputs [.host a]).inputs = .host a :: [] ∧
        a.space = .buf ∧ (a.width ≠ .w8 ∨ (withInputs [.host a]).params.bufCap.toNat ≤ a.addr)) := by decide
theorem witness_OnlyStatusMayBeReadWhileBusy :
    (let a : Access := ⟨.read, .reg, .w32, 0x04, 0⟩;
      (busyWith [.host a]).safe ∧ (busyWith [.host a]).inFlight ≠ none ∧ (busyWith [.host a]).inputs = .host a :: [] ∧
        a.dir = .read ∧ a.space = .reg ∧ a.width = .w32 ∧ a.addr = 0x04) ∧
    (let a : Access := ⟨.read, .reg, .w32, 0x08, 0⟩;
      (busyWith [.host a]).safe ∧ (busyWith [.host a]).inFlight ≠ none ∧ (busyWith [.host a]).inputs = .host a :: [] ∧
        ¬(a.dir = .read ∧ a.space = .reg ∧ a.width = .w32 ∧ a.addr = 0x04)) := by decide
theorem witness_HostFaultIsNeverCleared :
    ({ State.reset with hostFault := some .whileBusy, inputs := [.reset] } : State).hostFault = some .whileBusy := rfl

theorem witness_ResetValuesAreAsGiven : State.reset = State.resetWith Params.default := rfl
theorem witness_ResetInputClearsRegistersKeepsBuf :
    (withInputs [.reset]).ready ∧ (withInputs [.reset]).inputs = .reset :: [] := by decide
theorem witness_ResetAbandonsTheCommand :
    let s : State := { ranged 24 0 0 with inFlight := some 0x21, inputs := [.reset] }
    s.safe ∧ s.inFlight = some 0x21 ∧ s.inputs = .reset :: [] ∧ 23 ∈ mayWrite .icmp4Marshal s := by decide
theorem witness_PowerOnLeavesBufUnspecified :
    (withInputs [.powerOn]).safe ∧ (withInputs [.powerOn]).inputs = .powerOn :: [] := by decide

/-- A state with bytes in BUF and ACC at its largest, and the step of a command in it. -/
theorem witness_StepKeepsTheInvariant :
    let s : State := { ranged 20 0 0 with buf := [(0, 0x12), (65534, 0x34)], acc := 0xFFFF, inFlight := some 0x13 }
    s.Inv ∧ ∃ t, step s = .next t :=
  ⟨by decide, _, rfl⟩
theorem witness_ParametersAreConstant : ∃ t, step (withInputs [.reset]) = .next t := ⟨_, rfl⟩

end Sys2Proof.Tests
end

/-! SUPPORT. A command as check, then effect: every command ends with the code of its cause, and its writes take effect
exactly when that code is OK (spec/60_exceptions.md R116, R119, R121, R131). -/

section
namespace Sys2Proof.Machine

/-- What a command writes, apart from STATUS, once its checks have passed. `exec_eq_effect` ties it to `exec`. -/
def effect (i : Instr) (s : State) : State :=
  match i with
  | .csum =>
    let f := fold (inetSum s.readByte s.off.toNat s.cnt.toNat)
    (s.setAcc f).setResult ((complement16 f).setWidth 32)
  | .get16 => s.setResult (memRead s.readByte s.off.toNat 2)
  | .get32 => s.setResult (memRead s.readByte s.off.toNat 4)
  | .put16 => memWrite s.off.toNat 2 s.val s
  | .put32 => memWrite s.off.toNat 4 s.val s
  | .ip4Len => s.setResult 20
  | .ip4Marshal => ip4Fill s.proto s
  | .ip4MarshalPseudo => ip4Pseudo s
  | .ip4ToResponse => swapToResponse s
  | .icmp4Len => s.setResult 24
  | .icmp4Marshal => embedChecksum s.len.toNat 22 (icmp4Fields s)
  | .icmp4ToResponse => swapToResponse { s with icmpType := s.params.echoReply, icmpCode := 0 }

/-- The state `u` when the code is OK, else `s` as it was; the command ends with the code in either case (R121). -/
def endWith (c : ResultCode) (s u : State) : State :=
  (if c = .ok then u else s).endCommand c

theorem endWith_ok (s u : State) : endWith .ok s u = u.endCommand .ok := rfl

theorem endWith_error {c : ResultCode} (h : c ≠ .ok) (s u : State) : endWith c s u = s.endCommand c := by
  rw [endWith, if_neg h]

theorem rangeCode_ok_iff (n : Nat) (s : State) : rangeCode n s = .ok ↔ inRange n s = true := by
  rw [inRange_iff, rangeCode]
  split_ifs <;> simp <;> omega

theorem rangeCode_eq_rangeError {n : Nat} {s : State} (h : rangeCode n s ≠ .ok) : rangeCode n s = .rangeError := by
  unfold rangeCode at h ⊢
  split_ifs at h ⊢
  · rfl
  · exact absurd rfl h

/-- A range that passed its check lies in BUF (R119). -/
theorem off_add_le_bufCap {n : Nat} {s : State} (h : rangeCode n s = .ok) :
    s.off.toNat + n ≤ s.params.bufCap.toNat := by
  obtain ⟨hlen, hoff⟩ := (inRange_iff n s).1 ((rangeCode_ok_iff n s).1 h)
  exact hoff.trans hlen

/-- A command behind the check of R119. -/
theorem rangeChecked_eq (n : Nat) (s u : State) :
    (if inRange n s then complete u else raise .rangeError s) = .next (endWith (rangeCode n s) s u) := by
  by_cases h : inRange n s = true
  · rw [if_pos h, (rangeCode_ok_iff n s).2 h, endWith_ok, complete]
  · have hc : rangeCode n s = .rangeError := rangeCode_eq_rangeError (mt (rangeCode_ok_iff n s).1 h)
    rw [if_neg h, hc, endWith_error (by decide), raise]

theorem lengthCode_of_lengthError_none {hlen : Nat} {s : State} (h : lengthError hlen s = none) :
    lengthCode hlen s = .ok := by
  obtain ⟨h1, h2⟩ := (lengthError_none_iff hlen s).1 h
  rw [lengthCode, if_neg (by omega), if_neg (by omega)]

theorem lengthCode_of_lengthError_some {hlen : Nat} {s : State} {c : ResultCode}
    (h : lengthError hlen s = some c) : lengthCode hlen s = c ∧ c ≠ .ok := by
  unfold lengthError at h
  unfold lengthCode
  split_ifs at h ⊢ <;> cases h <;> exact ⟨rfl, by decide⟩

/-- A command behind the checks of R116, given by what it does in the two cases of the check. -/
theorem lengthChecked_eq {o : Host.Outcome State Fault Refusal} {hlen : Nat} {s u : State}
    (hbad : ∀ c, lengthError hlen s = some c → o = raise c s) (hok : lengthError hlen s = none → o = complete u) :
    o = .next (endWith (lengthCode hlen s) s u) := by
  cases h : lengthError hlen s with
  | none => rw [hok h, lengthCode_of_lengthError_none h, endWith_ok, complete]
  | some c =>
    obtain ⟨hc, hne⟩ := lengthCode_of_lengthError_some h
    rw [hbad c h, hc, endWith_error hne, raise]

/-- What every command does, said once: it always ends, with the code of its cause, and writes something else than
STATUS exactly when that code is OK. -/
theorem exec_eq_effect (i : Instr) (s : State) :
    exec i s = .next (endWith (expectedErr i s) s (effect i s)) := by
  cases i with
  | csum => exact rangeChecked_eq s.cnt.toNat s _
  | get16 => exact rangeChecked_eq 2 s _
  | get32 => exact rangeChecked_eq 4 s _
  | put16 => exact rangeChecked_eq 2 s _
  | put32 => exact rangeChecked_eq 4 s _
  | ip4Marshal =>
    exact lengthChecked_eq (fun c h => by simp [exec, execIp4Marshal, h])
      (fun h => by simp [exec, execIp4Marshal, effect, h])
  | ip4MarshalPseudo =>
    exact lengthChecked_eq (fun c h => by simp [exec, execIp4MarshalPseudo, h])
      (fun h => by simp [exec, execIp4MarshalPseudo, effect, h])
  | icmp4Marshal =>
    exact lengthChecked_eq (fun c h => by simp [exec, execIcmp4Marshal, h])
      (fun h => by simp [exec, execIcmp4Marshal, effect, h])
  | ip4Len | ip4ToResponse | icmp4Len | icmp4ToResponse => rfl

theorem exec_next_iff {i : Instr} {s t : State} :
    exec i s = .next t ↔ t = endWith (expectedErr i s) s (effect i s) := by
  rw [exec_eq_effect, Host.Outcome.next.injEq, eq_comm]

/-- The end of a command, by the code it ends with. -/
theorem exec_next_cases {i : Instr} {s t : State} (h : exec i s = .next t) :
    (expectedErr i s = .ok ∧ t = (effect i s).endCommand .ok) ∨
      (expectedErr i s ≠ .ok ∧ t = s.endCommand (expectedErr i s)) := by
  rw [exec_next_iff.1 h]
  by_cases hc : expectedErr i s = .ok
  · exact .inl ⟨hc, by rw [hc, endWith_ok]⟩
  · exact .inr ⟨hc, endWith_error hc _ _⟩

@[simp] theorem embedChecksum_params (n field : Nat) (s : State) : (embedChecksum n field s).params = s.params := by
  rw [embedChecksum_eq]

@[simp] theorem ip4Fill_params (p : Byte) (s : State) : (ip4Fill p s).params = s.params := by rw [ip4Fill_eq]

@[simp] theorem ip4Pseudo_params (s : State) : (ip4Pseudo s).params = s.params := by rw [ip4Pseudo_eq]

@[simp] theorem icmp4Fields_params (s : State) : (icmp4Fields s).params = s.params := by rw [icmp4Fields_eq]

/-- No command changes a parameter (R32). -/
@[simp] theorem effect_params (i : Instr) (s : State) : (effect i s).params = s.params := by
  cases i <;> simp [effect]

theorem exec_params {i : Instr} {s t : State} (h : exec i s = .next t) : t.params = s.params := by
  obtain ⟨-, rfl⟩ | ⟨-, rfl⟩ := exec_next_cases h <;> simp

end Sys2Proof.Machine
end

/-! SUPPORT. BUF in its canonical form below a limit (spec/20_memory.md R43), and what keeps it. -/

section
namespace Sys2Proof.Machine

/-- The part of the invariant that speaks of BUF: canonical form, and only addresses below the limit. -/
def Memory.WfBelow (lim : Nat) (m : Memory) : Prop := m.wf ∧ ∀ c ∈ m, c.1 < lim

theorem Memory.wfBelow_nil (lim : Nat) : Memory.WfBelow lim [] := ⟨Memory.wf_nil, by simp⟩

theorem Memory.wfBelow_write {lim : Nat} {m : Memory} (h : Memory.WfBelow lim m) {a : Nat} (ha : a < lim) (b : Byte) :
    Memory.WfBelow lim (m.write a b) := by
  obtain ⟨hwf, hlim⟩ := h
  refine ⟨Memory.wf_write hwf a b, fun c hc => ?_⟩
  rcases Memory.mem_write hc with rfl | hc
  · exact ha
  · exact hlim c hc

theorem Memory.mem_of_lookup {m : Memory} {a : Nat} {b : Byte} (h : m.lookup a = some b) : (a, b) ∈ m := by
  induction m with
  | nil => simp [Memory.lookup] at h
  | cons c rest ih =>
    obtain ⟨k, v⟩ := c
    unfold Memory.lookup at h
    split_ifs at h with hk
    · simp_all
    · exact List.mem_cons_of_mem _ (ih h)

/-- Copying one address from a memory below the limit: an address that is not listed there is not written. -/
theorem copyByte_wfBelow {lim : Nat} {new m : Memory} (hnew : new.WfBelow lim) (hm : m.WfBelow lim) (a : Nat) :
    (copyByte new m a).WfBelow lim := by
  obtain ⟨-, hlim⟩ := hnew
  unfold copyByte
  split
  next b hb => exact Memory.wfBelow_write hm (hlim _ (Memory.mem_of_lookup hb)) b
  next => exact hm

theorem foldl_copyByte_wfBelow {lim : Nat} {new m : Memory} (hnew : new.WfBelow lim) (hm : m.WfBelow lim)
    (as : List Nat) : (as.foldl (copyByte new) m).WfBelow lim := by
  induction as generalizing m with
  | nil => exact hm
  | cons a as ih => exact ih (copyByte_wfBelow hnew hm a)

end Sys2Proof.Machine
end

/-! PROOFS. The invariant: every operation keeps it, so every step does (spec/00_scope.md R7; spec/20_memory.md R43;
spec/10_state.md R24). -/

section
namespace Sys2Proof.Machine

/-- Fold ends with a 16-bit value (R74, R77): after one step at most 0x1FFFE is left, after two at most 0xFFFF. -/
theorem fold_toNat_le (acc : Word) : (fold acc).toNat ≤ 0xFFFF := by
  have hlt := acc.isLt
  have h1 := foldStep_toNat acc
  have h2 := foldStep_toNat (foldStep acc)
  simp only [fold, foldLoop, highHalf_zero_iff]
  split_ifs <;> omega

theorem inv_iff (s : State) :
    s.Inv ↔ s.params.wf ∧ s.buf.WfBelow s.params.bufCap.toNat ∧ s.acc.toNat ≤ 0xFFFF := by
  simp only [State.Inv, Memory.WfBelow, and_assoc]

/-- The invariant speaks of the parameters, BUF and ACC only. -/
theorem inv_of_bufAcc {s t : State} (hs : s.Inv) (hp : t.params = s.params)
    (hb : t.buf.WfBelow s.params.bufCap.toNat) (ha : t.acc.toNat ≤ 0xFFFF) : t.Inv := by
  obtain ⟨hwf, -, -⟩ := (inv_iff s).1 hs
  rw [inv_iff, hp]
  exact ⟨hwf, hb, ha⟩

theorem inv_of_eq {s t : State} (hs : s.Inv) (hp : t.params = s.params) (hb : t.buf = s.buf) (ha : t.acc = s.acc) :
    t.Inv := by
  obtain ⟨-, hbuf, hacc⟩ := (inv_iff s).1 hs
  exact inv_of_bufAcc hs hp (hb ▸ hbuf) (ha ▸ hacc)

/-- An update of BUF alone. -/
theorem inv_of_buf {s t : State} (hs : s.Inv) (h : t = { s with buf := t.buf })
    (hb : t.buf.WfBelow s.params.bufCap.toNat) : t.Inv := by
  obtain ⟨-, -, hacc⟩ := (inv_iff s).1 hs
  exact inv_of_bufAcc hs (by rw [h]) hb (by rw [h]; exact hacc)

section Operations
variable {s : State} (hs : s.Inv)
include hs

/-- The longest header fits BUF (R7). -/
theorem bufCap_ge_of_inv : 24 ≤ s.params.bufCap.toNat := by
  obtain ⟨⟨hmin, -, hcap, -⟩, -⟩ := hs
  omega

theorem endCommand_inv (c : ResultCode) : (s.endCommand c).Inv := inv_of_eq hs rfl rfl rfl

theorem setResult_inv (w : Word) : (s.setResult w).Inv := inv_of_eq hs rfl rfl rfl

theorem swapToResponse_inv : (swapToResponse s).Inv := inv_of_eq hs rfl rfl rfl

theorem setAcc_inv {w : Word} (hw : w.toNat ≤ 0xFFFF) : (s.setAcc w).Inv := by
  obtain ⟨-, hbuf, -⟩ := (inv_iff s).1 hs
  exact inv_of_bufAcc hs rfl hbuf hw

theorem writeByte_inv {a : Nat} (ha : a < s.params.bufCap.toNat) (b : Byte) : (s.writeByte a b).Inv := by
  obtain ⟨-, hbuf, hacc⟩ := (inv_iff s).1 hs
  exact inv_of_bufAcc hs rfl (Memory.wfBelow_write hbuf ha b) hacc

theorem memWrite_inv {a n : Nat} (hn : a + n ≤ s.params.bufCap.toNat) (v : Word) : (memWrite a n v s).Inv := by
  obtain ⟨-, ⟨hwf, hlim⟩, -⟩ := (inv_iff s).1 hs
  exact inv_of_buf hs (memWrite_eq a n v s) ⟨memWrite_buf_wf hwf a n v, memWrite_buf_below hlim a n v hn⟩

/-- A write into the header area needs no check of its own: `bufCap_ge_of_inv`. -/
theorem memWrite_header_inv {a n : Nat} (hn : a + n ≤ 24) (v : Word) : (memWrite a n v s).Inv :=
  memWrite_inv hs (hn.trans (bufCap_ge_of_inv hs)) v

theorem embedChecksum_inv (n : Nat) {field : Nat} (hf : field + 2 ≤ 24) : (embedChecksum n field s).Inv :=
  memWrite_header_inv (setAcc_inv hs (fold_toNat_le _)) hf _

theorem ip4Fields_inv (p : Byte) : (ip4Fields p s).Inv := by
  obtain ⟨-, ⟨hwf, hlim⟩, -⟩ := (inv_iff s).1 hs
  have hcap := bufCap_ge_of_inv hs
  exact inv_of_buf hs (ip4Fields_eq p s) ⟨ip4Fields_wf hwf p, ip4Fields_below hlim (by omega) p⟩

theorem ip4Fill_inv (p : Byte) : (ip4Fill p s).Inv := embedChecksum_inv (ip4Fields_inv hs p) 20 (by omega)

theorem ip4Pseudo_inv : (ip4Pseudo s).Inv := by
  obtain ⟨-, ⟨hwf, hlim⟩, -⟩ := (inv_iff s).1 hs
  have hcap := bufCap_ge_of_inv hs
  exact inv_of_buf hs (ip4Pseudo_eq s) ⟨ip4Pseudo_wf hwf, ip4Pseudo_below hlim (by omega)⟩

theorem icmp4Fields_inv : (icmp4Fields s).Inv := by
  unfold icmp4Fields
  refine memWrite_header_inv (ip4Fill_inv ?_ 1) (by omega) _
  exact memWrite_header_inv (memWrite_header_inv hs (by omega) _) (by omega) _

theorem effect_inv {i : Instr} (hok : expectedErr i s = .ok) : (effect i s).Inv := by
  cases i with
  | csum => exact setResult_inv (setAcc_inv hs (fold_toNat_le _)) _
  | get16 | get32 | ip4Len | icmp4Len => exact setResult_inv hs _
  | put16 | put32 => exact memWrite_inv hs (off_add_le_bufCap hok) _
  | ip4Marshal => exact ip4Fill_inv hs s.proto
  | ip4MarshalPseudo => exact ip4Pseudo_inv hs
  | icmp4Marshal => exact embedChecksum_inv (icmp4Fields_inv hs) _ (by omega)
  | ip4ToResponse => exact swapToResponse_inv hs
  | icmp4ToResponse => exact swapToResponse_inv (inv_of_eq hs rfl rfl rfl)

theorem exec_inv {i : Instr} {t : State} (h : exec i s = .next t) : t.Inv := by
  obtain ⟨hok, rfl⟩ | ⟨-, rfl⟩ := exec_next_cases h
  · exact endCommand_inv (effect_inv hs hok) .ok
  · exact endCommand_inv hs _

theorem blockTurn_inv {t : State} (h : blockTurn s = .next t) : t.Inv := by
  obtain ⟨-, hidle⟩ | ⟨w, i, -, -, hrun⟩ | ⟨w, r, -, -, hill⟩ := blockTurn_cases s
  · cases hidle.symm.trans h
    exact hs
  · exact exec_inv hs (hrun.symm.trans h)
  · cases hill.symm.trans h
    exact endCommand_inv hs .illegalCmd

/-- No register write reaches the parameters, BUF or ACC: the registers that show them are RO (R15). -/
theorem regWrite_inv (r : Reg) (v : Word) : (regWrite r v s).Inv := by
  cases r <;> exact inv_of_eq hs rfl rfl rfl

end Operations

/-- A register access is never a BUF write, and an allowed BUF write is below BUF_CAP (R43). -/
theorem resolve_writeByte_lt {a : Access} {cap x : Nat} {b : Byte} (h : a.resolve cap = .ok (.wb x b)) : x < cap := by
  unfold Access.resolve at h
  split at h
  · unfold resolveReg at h
    split at h <;> cases h
  · unfold resolveBuf at h
    split_ifs at h with hform
    obtain ⟨-, hlt⟩ := hform
    split at h <;> cases h
    exact hlt

section Inputs
variable {s : State} (hs : s.Inv)
include hs

theorem hostAccess_inv (a : Access) : (hostAccess a s).Inv := by
  obtain ⟨f, hfault⟩ | ⟨op, hop, -, hdo⟩ := hostAccess_cases a s
  · rw [hfault]
    exact inv_of_eq hs rfl rfl rfl
  · rw [hdo]
    cases op with
    | wr r v => exact regWrite_inv hs r v
    | rd r => exact inv_of_eq hs rfl rfl rfl
    | wb x b => exact writeByte_inv hs (resolve_writeByte_lt hop) b
    | rb x => exact inv_of_eq hs rfl rfl rfl

theorem abandonedBuf_wfBelow (i : Instr) : (abandonedBuf i s).WfBelow s.params.bufCap.toNat := by
  obtain ⟨-, hbuf, -⟩ := (inv_iff s).1 hs
  unfold abandonedBuf
  split
  next t ht =>
    obtain ⟨-, hnew, -⟩ := (inv_iff t).1 (exec_inv hs ht)
    rw [exec_params ht] at hnew
    exact foldl_copyByte_wfBelow hnew hbuf _
  next => exact hbuf
  next => exact hbuf

theorem abandonWord_inv (w : Word) : (abandonWord w s).Inv := by
  obtain ⟨-, -, hacc⟩ := (inv_iff s).1 hs
  unfold abandonWord
  split
  next i _ => exact inv_of_bufAcc hs rfl (abandonedBuf_wfBelow hs i) hacc
  next => exact hs

theorem resetRegs_inv : (resetRegs s).Inv := by
  obtain ⟨-, hbuf, -⟩ := (inv_iff s).1 hs
  exact inv_of_bufAcc hs rfl hbuf (by simp)

theorem resetInput_inv : (resetInput s).Inv := by
  unfold resetInput
  split
  next w _ => exact resetRegs_inv (abandonWord_inv hs w)
  next => exact resetRegs_inv hs

theorem powerOnInput_inv : (powerOnInput s).Inv :=
  inv_of_bufAcc hs rfl (Memory.wfBelow_nil _) (Nat.zero_le _)

theorem handle_inv {e : Input} {t : State} (h : handle e s = .next t) : t.Inv := by
  cases e with
  | host a =>
    cases h
    exact hostAccess_inv hs a
  | block => exact blockTurn_inv hs h
  | reset =>
    cases h
    exact resetInput_inv hs
  | powerOn =>
    cases h
    exact powerOnInput_inv hs

theorem step_inv {t : State} (h : step s = .next t) : t.Inv := by
  obtain ⟨-, ⟨-, hblock⟩ | ⟨e, rest, -, hinput⟩⟩ := step_next_cases h
  · exact blockTurn_inv hs hblock
  · exact handle_inv (s := { s with inputs := rest }) (inv_of_eq hs rfl rfl rfl) hinput

end Inputs

theorem resetWith_inv {p : Params} (hp : p.wf) : (State.resetWith p).Inv :=
  (inv_iff _).2 ⟨hp, Memory.wfBelow_nil _, Nat.zero_le _⟩

/-- Settles O52: the block's turn and every input keep the invariant. -/
theorem stepKeepsTheInvariant : Obligations.StepKeepsTheInvariant :=
  fun _ _ hs h => step_inv hs h

/-- Settles O53: the defaults meet R7, and so the reset state meets the invariant. -/
theorem resetMeetsTheInvariant : Obligations.ResetMeetsTheInvariant :=
  ⟨rfl, resetWith_inv (by decide)⟩

end Sys2Proof.Machine
end

/-! PROOFS. The register map as a bijection: one register per aligned word below 0x40 (spec/10_state.md R13, R14;
spec/20_memory.md R42). -/

section
namespace Sys2Proof.Machine

@[simp] theorem atOffset_offset (r : Reg) : Reg.atOffset r.offset = some r := by cases r <;> rfl

theorem atOffset_eq_some_iff {n : Nat} {r : Reg} : Reg.atOffset n = some r ↔ n = r.offset := by
  constructor
  · intro h
    unfold Reg.atOffset at h
    split at h <;> cases h <;> rfl
  · rintro rfl
    exact atOffset_offset r

theorem offset_aligned (r : Reg) : r.offset % 4 = 0 ∧ r.offset < 0x40 := by cases r <;> decide

/-- No aligned word below 0x40 is left without a register. -/
theorem atOffset_aligned_isSome : ∀ k < 16, (Reg.atOffset (4 * k)).isSome := by decide

/-- Settles O5: `Reg.atOffset` inverts `Reg.offset`, whose values are the sixteen aligned words. -/
theorem registerOffsetsAreAlignedWords : Obligations.RegisterOffsetsAreAlignedWords := by
  refine ⟨fun n r => atOffset_eq_some_iff, fun n => ⟨?_, ?_⟩⟩
  · rintro ⟨r, hr⟩
    rw [atOffset_eq_some_iff.1 hr]
    exact offset_aligned r
  · rintro ⟨halign, hlt⟩
    have hn : 4 * (n / 4) = n := by omega
    rw [← Option.isSome_iff_exists, ← hn]
    exact atOffset_aligned_isSome (n / 4) (by omega)

end Sys2Proof.Machine
end

/-! PROOFS. Which registers a command can write, said once as an equation for its end state (spec/10_state.md R33). -/

section
namespace Sys2Proof.Machine

/-- ICMP4_MARSHAL's writes, the whole-buffer sum included, change ACC and BUF and nothing else (R108). -/
theorem icmp4Embed_eq (n : Nat) (s : State) :
    embedChecksum n 22 (icmp4Fields s) =
      { s with buf := (embedChecksum n 22 (icmp4Fields s)).buf, acc := (embedChecksum n 22 (icmp4Fields s)).acc } := by
  have hsum := embedChecksum_eq n 22 (icmp4Fields s)
  have hfields := icmp4Fields_eq s
  rw [hsum, hfields]

/-- The frame of a command's writes: BUF apart, a register outside the command's row of R33 keeps its value. -/
theorem effect_eq (i : Instr) (s : State) :
    effect i s = { s with
      buf := (effect i s).buf
      result := if i ∈ [.csum, .get16, .get32, .ip4Len, .icmp4Len] then (effect i s).result else s.result
      acc := if i ∈ [.csum, .ip4Marshal, .icmp4Marshal] then (effect i s).acc else s.acc
      ipid := if i ∈ [.ip4ToResponse, .icmp4ToResponse] then (effect i s).ipid else s.ipid
      srcip := if i ∈ [.ip4ToResponse, .icmp4ToResponse] then (effect i s).srcip else s.srcip
      dstip := if i ∈ [.ip4ToResponse, .icmp4ToResponse] then (effect i s).dstip else s.dstip
      icmpType := if i = .icmp4ToResponse then (effect i s).icmpType else s.icmpType
      icmpCode := if i = .icmp4ToResponse then (effect i s).icmpCode else s.icmpCode } := by
  cases i with
  | csum | get16 | get32 | ip4Len | icmp4Len | ip4ToResponse | icmp4ToResponse => rfl
  | put16 | put32 => exact memWrite_eq _ _ _ _
  | ip4Marshal => exact ip4Fill_eq s.proto s
  | ip4MarshalPseudo => exact ip4Pseudo_eq s
  | icmp4Marshal => exact icmp4Embed_eq s.len.toNat s

/-- The frame of a command, whatever code it ends with: STATUS, BUF and the registers of its row of R33. -/
theorem exec_next_frame {i : Instr} {s t : State} (h : exec i s = .next t) :
    t = { s with
      err := t.err
      inFlight := none
      buf := t.buf
      result := if i ∈ [.csum, .get16, .get32, .ip4Len, .icmp4Len] then t.result else s.result
      acc := if i ∈ [.csum, .ip4Marshal, .icmp4Marshal] then t.acc else s.acc
      ipid := if i ∈ [.ip4ToResponse, .icmp4ToResponse] then t.ipid else s.ipid
      srcip := if i ∈ [.ip4ToResponse, .icmp4ToResponse] then t.srcip else s.srcip
      dstip := if i ∈ [.ip4ToResponse, .icmp4ToResponse] then t.dstip else s.dstip
      icmpType := if i = .icmp4ToResponse then t.icmpType else s.icmpType
      icmpCode := if i = .icmp4ToResponse then t.icmpCode else s.icmpCode } := by
  obtain ⟨-, rfl⟩ | ⟨-, rfl⟩ := exec_next_cases h
  · exact congrArg (State.endCommand · .ok) (effect_eq i s)
  · apply State.ext <;> simp

/-- Settles O38: every conjunct is a field of `exec_next_frame`. -/
theorem commandsWriteOnlyTheirRegisters : Obligations.CommandsWriteOnlyTheirRegisters := by
  intro i s t hexec
  have hframe := exec_next_frame hexec
  refine ⟨by rw [hframe], by rw [hframe], by rw [hframe], by rw [hframe], by rw [hframe], fun hi => ?_, fun hi => ?_,
    fun hi => ⟨?_, ?_, ?_⟩, fun hi => ⟨?_, ?_⟩⟩
  all_goals
    rw [hframe]
    exact if_neg hi

end Sys2Proof.Machine
end

/-! PROOFS. A step by what moves: the block, or the next input; and a host access by the line it resolves to
(spec/20_memory.md R55; spec/70_reset_and_hazards.md R131, R138). -/

section
namespace Sys2Proof.Machine

theorem step_of_input {s : State} {e : Input} {rest : List Input} (hsafe : s.safe) (hin : s.inputs = e :: rest) :
    step s = handle e { s with inputs := rest } := by
  simp only [step, hsafe, hin]

theorem step_of_no_input {s : State} (hsafe : s.safe) (hin : s.inputs = []) : step s = blockTurn s := by
  simp only [step, hsafe, hin]

theorem step_of_blockMovesNext {s : State} (hsafe : s.safe) (hmove : s.blockMovesNext) :
    step s = blockTurn { s with inputs := s.inputs.tail } := by
  obtain hnil | hblock := hmove
  · have hs : { s with inputs := s.inputs.tail } = s := by apply State.ext <;> simp [hnil]
    rw [hs, step_of_no_input hsafe hnil]
  · obtain ⟨rest, hin⟩ := List.head?_eq_some_iff.1 hblock
    rw [step_of_input hsafe hin, hin]
    rfl

theorem blockTurn_of_decode {s : State} {w : Word} {i : Instr} (hfly : s.inFlight = some w) (hdec : decode w = .ok i) :
    blockTurn s = exec i s := by
  simp only [blockTurn, runWord, hfly, hdec]

/-- While BUSY = 0 an allowed access is performed (R136). -/
theorem hostAccess_of_idle {a : Access} {s : State} {op : HostOp} (hop : a.resolve s.params.bufCap.toNat = .ok op)
    (hidle : s.inFlight = none) : hostAccess a s = performOp op s := by
  simp [hostAccess, hop, mayAccess, State.busy, hidle]

/-- While BUSY = 1 an access of an allowed form that is no STATUS read records a fault (R138). -/
theorem hostAccess_of_busy {a : Access} {s : State} {op : HostOp} (hop : a.resolve s.params.bufCap.toNat = .ok op)
    (hne : op ≠ .rd .status) (hbusy : s.inFlight ≠ none) : hostAccess a s = recordFault .whileBusy s := by
  simp [hostAccess, hop, mayAccess, State.busy, hne, Option.isSome_iff_ne_none.2 hbusy]

theorem step_of_idle_access {s : State} {a : Access} {op : HostOp} {rest : List Input} (hready : s.ready)
    (hin : s.inputs = .host a :: rest) (hop : a.resolve s.params.bufCap.toNat = .ok op) :
    step s = .next (performOp op { s with inputs := rest }) := by
  obtain ⟨hsafe, hidle⟩ := hready
  rw [step_of_input hsafe hin, handle, hostAccess_of_idle (s := { s with inputs := rest }) hop hidle]

theorem step_of_busy_access {s : State} {a : Access} {op : HostOp} {rest : List Input} (hsafe : s.safe)
    (hbusy : s.inFlight ≠ none) (hin : s.inputs = .host a :: rest) (hop : a.resolve s.params.bufCap.toNat = .ok op)
    (hne : op ≠ .rd .status) : step s = .next (recordFault .whileBusy { s with inputs := rest }) := by
  rw [step_of_input hsafe hin, handle, hostAccess_of_busy (s := { s with inputs := rest }) hop hne hbusy]

/-- The read of a register's offset is that register's `rd`, whatever data word comes with it. -/
theorem resolve_regRead (cap : Nat) (r : Reg) (d : Word) :
    Access.resolve cap ⟨.read, .reg, .w32, r.offset, d⟩ = .ok (.rd r) := by
  simp [Access.resolve, resolveReg]

theorem resolve_regWrite (cap : Nat) (r : Reg) (v : Word) :
    Access.resolve cap ⟨.write, .reg, .w32, r.offset, v⟩ = .ok (.wr r v) := by
  simp [Access.resolve, resolveReg]

/-- A register shows nothing of what is outside the block. -/
theorem regRead_outside (r : Reg) (s : State) (es : List Input) (d : Option Word) :
    regRead r { s with inputs := es, readData := d } = regRead r s := by
  cases r <;> rfl

/-- A register write leaves what is about to happen alone. -/
theorem regWrite_outside (r : Reg) (v : Word) (s : State) (es : List Input) :
    regWrite r v { s with inputs := es } = { regWrite r v s with inputs := es } := by
  cases r <;> rfl

/-- A host read of a register while BUSY = 0 (R15, R52). -/
theorem step_regRead {s : State} {r : Reg} {d : Word} {rest : List Input} (hready : s.ready)
    (hin : s.inputs = .host ⟨.read, .reg, .w32, r.offset, d⟩ :: rest) :
    step s = .next { s with inputs := rest, readData := some (regRead r s) } := by
  rw [step_of_idle_access hready hin (resolve_regRead _ r d), performOp, regRead_outside r s rest s.readData]

/-- A host write of a register while BUSY = 0 (R15-R17). -/
theorem step_regWrite {s : State} {r : Reg} {v : Word} {rest : List Input} (hready : s.ready)
    (hin : s.inputs = .host ⟨.write, .reg, .w32, r.offset, v⟩ :: rest) :
    step s = .next { regWrite r v s with inputs := rest } := by
  rw [step_of_idle_access hready hin (resolve_regWrite _ r v), performOp, regWrite_outside]

/-- Settles O6: the block's turn runs the word in flight, which decodes to the command. -/
theorem stepRunsDecodedCommand : Obligations.StepRunsDecodedCommand := by
  intro s w i hsafe hmove hfly hdec
  rw [step_of_blockMovesNext hsafe hmove]
  exact blockTurn_of_decode (s := { s with inputs := s.inputs.tail }) hfly hdec

/-- Settles O8: an idle block performs the write of CMD, a busy one records it as a fault. -/
theorem cmdWriteStartsTheWord : Obligations.CmdWriteStartsTheWord := by
  intro s w rest hsafe hin
  refine ⟨fun hidle => step_regWrite (r := .cmd) ⟨hsafe, hidle⟩ hin, fun hbusy => ⟨.whileBusy, ?_⟩⟩
  exact step_of_busy_access hsafe hbusy hin (resolve_regWrite _ .cmd w) (by simp)

end Sys2Proof.Machine
end

/-! PROOFS. Registers as the host reads and writes them (spec/10_state.md R14-R18, R37). -/

section
namespace Sys2Proof.Machine

/-- The registers in the order of R14. -/
def Reg.all : List Reg :=
  [.cmd, .status, .len, .off, .cnt, .val, .result, .acc, .proto, .ipid, .srcip, .dstip, .icmpType, .icmpCode, .maxlen,
    .bufcap]

/-- Settles O41: the rows of the map are the offsets and values of the sixteen registers, and `step_regRead` says what
a read of each does. -/
theorem registerReadsFollowTheMap : Obligations.RegisterReadsFollowTheMap := by
  intro s rest d v n hready hin hrow
  have hmap : (n, v) ∈ Reg.all.map fun r => (r.offset, regRead r s) := by
    simpa only [Reg.all, List.map, Reg.offset, regRead, BitVec.ofNat_toNat] using hrow
  obtain ⟨r, -, hr⟩ := List.mem_map.1 hmap
  cases hr
  exact step_regRead hready hin

/-- A register write field by field: each field it can reach is its own register's alone. -/
theorem regWrite_eq (r : Reg) (v : Word) (s : State) :
    regWrite r v s = { s with
      inFlight := if .cmd = r then some v else s.inFlight
      len := if .len = r then v else s.len
      off := if .off = r then v else s.off
      cnt := if .cnt = r then v else s.cnt
      val := if .val = r then v else s.val
      proto := if .proto = r then v.setWidth 8 else s.proto
      ipid := if .ipid = r then v.setWidth 16 else s.ipid
      srcip := if .srcip = r then v else s.srcip
      dstip := if .dstip = r then v else s.dstip
      icmpType := if .icmpType = r then v.setWidth 8 else s.icmpType
      icmpCode := if .icmpCode = r then v.setWidth 8 else s.icmpCode } := by
  cases r <;> rfl

section RegWrite
variable (r : Reg) (v : Word) (s : State)

@[simp] theorem regWrite_params : (regWrite r v s).params = s.params := by rw [regWrite_eq]
@[simp] theorem regWrite_hostFault : (regWrite r v s).hostFault = s.hostFault := by rw [regWrite_eq]
@[simp] theorem regWrite_readByte : (regWrite r v s).readByte = s.readByte := by rw [regWrite_eq]; rfl

end RegWrite

/-- Only a write of CMD starts a command (R17). -/
theorem regWrite_inFlight {r : Reg} (hcmd : r ≠ .cmd) (v : Word) (s : State) :
    (regWrite r v s).inFlight = s.inFlight := by
  rw [regWrite_eq]
  exact if_neg hcmd.symm

theorem regWrite_ready {r : Reg} {s : State} (hready : s.ready) (hcmd : r ≠ .cmd) (v : Word) :
    (regWrite r v s).ready := by
  rwa [State.ready, regWrite_hostFault, regWrite_inFlight hcmd]

/-- The low bits of a field's width, as a word (R16). -/
theorem ofNat_mod_two_pow (w : Nat) (v : Word) : BitVec.ofNat 32 (v.toNat % 2 ^ w) = (v.setWidth w).setWidth 32 := by
  rw [← BitVec.ofNat_toNat, BitVec.toNat_setWidth]

/-- A register other than CMD read after it is written: an RW register has the low bits of its field's width, an RO one
its old value (R15, R16). -/
theorem regRead_regWrite_same {r : Reg} (hcmd : r ≠ .cmd) (v : Word) (s : State) :
    regRead r (regWrite r v s) =
      if r.accessType = .readWrite then BitVec.ofNat 32 (v.toNat % 2 ^ fieldWidth r) else regRead r s := by
  rw [ofNat_mod_two_pow]
  cases r with
  | cmd => exact absurd rfl hcmd
  | status | result | acc | maxlen | bufcap => rfl
  | len | off | cnt | val | srcip | dstip => simp [regRead, regWrite, Reg.accessType, fieldWidth]
  | proto | ipid | icmpType | icmpCode => rfl

/-- A register keeps its value when another register than CMD is written; CMD shows in STATUS. -/
theorem regRead_regWrite_other {r r' : Reg} (hne : r' ≠ r) (hcmd : r ≠ .cmd) (v : Word) (s : State) :
    regRead r' (regWrite r v s) = regRead r' s := by
  rw [regWrite_eq]
  cases r' <;> simp [regRead, statusWord, State.busy, hne, hcmd.symm]

/-- Settles O42: two steps of an idle block, the second reading the state that the first wrote. -/
theorem registerWriteThenRead : Obligations.RegisterWriteThenRead := by
  intro s r v rest hready hcmd hin
  have hwrite := step_regWrite hready hin
  have hread := step_regRead (s := { regWrite r v s with inputs := line (.rd r) :: rest })
    (regWrite_ready hready hcmd v) rfl
  refine ⟨_, _, hwrite, hread, rfl, ?_, fun r' hne => ?_, fun a => ?_⟩
  · exact congrArg some ((regRead_outside r (regWrite r v s) _ _).trans (regRead_regWrite_same hcmd v s))
  · exact (regRead_outside r' (regWrite r v s) _ _).trans (regRead_regWrite_other hne hcmd v s)
  · exact congrFun (regWrite_readByte r v s) a

/-- STATUS as a number: ERR in its place above BUSY, and nothing else. -/
theorem statusWord_toNat (s : State) : (statusWord s).toNat = (errCode s.err).toNat * 16 + s.busy.toNat := by
  have herr := (errCode s.err).isLt
  have hbusy : s.busy.toNat < 2 ^ 4 := (Bool.toNat_lt s.busy).trans (by decide)
  have hshift : ((errCode s.err).setWidth 32 <<< 4).toNat = (errCode s.err).toNat <<< 4 := by
    simp only [BitVec.toNat_shiftLeft, BitVec.toNat_setWidth, Nat.shiftLeft_eq]
    omega
  have hbit : ((BitVec.ofBool s.busy).setWidth 32).toNat = s.busy.toNat := by cases s.busy <;> rfl
  rw [statusWord, BitVec.toNat_or, hshift, hbit, ← Nat.shiftLeft_add_eq_or_of_lt hbusy, Nat.shiftLeft_eq]

/-- Settles O43: the fields are read off `statusWord_toNat`. -/
theorem statusFieldsAreAsGiven : Obligations.StatusFieldsAreAsGiven := by
  intro s
  have hword := statusWord_toNat s
  have herr := (errCode s.err).isLt
  have hbusy := Bool.toNat_lt s.busy
  refine ⟨?_, by omega, ?_, by omega⟩
  · have hbit : (statusWord s).toNat % 2 = s.busy.toNat := by omega
    rw [hbit, State.busy]
    cases s.inFlight <;> rfl
  · have hcode : (statusWord s).toNat / 2 ^ 4 % 2 ^ 4 = (errCode s.err).toNat := by omega
    rw [hcode]
    cases s.err <;> rfl

theorem statusWord_resetWith (p : Params) : statusWord (State.resetWith p) = 0 :=
  BitVec.eq_of_toNat_eq (statusWord_toNat _)

/-- A byte that nothing has written is the free value of the power cycle (R48). -/
theorem readByte_of_unwritten {s : State} {a : Nat} (h : s.buf.lookup a = none) :
    s.readByte a = Config.powerOnByte s.powerCycle a := by
  rw [State.readByte, h, Option.getD_none]

/-- Settles O48: the fields of `State.resetWith`; nothing is written in BUF. -/
theorem resetValuesAreAsGiven : Obligations.ResetValuesAreAsGiven := by
  rintro p s rfl
  exact ⟨statusWord_resetWith p, rfl, rfl, rfl, rfl, rfl, rfl, rfl, rfl, rfl, rfl, rfl, rfl, rfl, rfl, rfl, rfl,
    fun a => readByte_of_unwritten rfl⟩

end Sys2Proof.Machine
end

/-! PROOFS. The parameters are constant: no command, access, reset or power-on changes them (spec/10_state.md R32). -/

section
namespace Sys2Proof.Machine

theorem blockTurn_params {s t : State} (h : blockTurn s = .next t) : t.params = s.params := by
  obtain ⟨-, hidle⟩ | ⟨w, i, -, -, hrun⟩ | ⟨w, r, -, -, hill⟩ := blockTurn_cases s
  · cases hidle.symm.trans h
    rfl
  · exact exec_params (hrun.symm.trans h)
  · cases hill.symm.trans h
    exact endCommand_params s .illegalCmd

theorem performOp_params (op : HostOp) (s : State) : (performOp op s).params = s.params := by
  cases op with
  | wr r v => exact regWrite_params r v s
  | rd r | rb a => rfl
  | wb a b => exact writeByte_params s a b

theorem hostAccess_params (a : Access) (s : State) : (hostAccess a s).params = s.params := by
  obtain ⟨f, hfault⟩ | ⟨op, -, -, hdo⟩ := hostAccess_cases a s
  · rw [hfault, recordFault_params]
  · rw [hdo, performOp_params]

theorem abandonWord_params (w : Word) (s : State) : (abandonWord w s).params = s.params := by
  unfold abandonWord
  split <;> rfl

theorem resetInput_params (s : State) : (resetInput s).params = s.params := by
  unfold resetInput
  split
  next w _ => rw [resetRegs_params, abandonWord_params]
  next => exact resetRegs_params s

theorem handle_params {e : Input} {s t : State} (h : handle e s = .next t) : t.params = s.params := by
  cases e with
  | host a =>
    cases h
    exact hostAccess_params a s
  | block => exact blockTurn_params h
  | reset =>
    cases h
    exact resetInput_params s
  | powerOn =>
    cases h
    exact resetRegs_params s

theorem step_params {s t : State} (h : step s = .next t) : t.params = s.params := by
  obtain ⟨-, ⟨-, hblock⟩ | ⟨e, rest, -, hinput⟩⟩ := step_next_cases h
  · exact blockTurn_params hblock
  · exact handle_params (s := { s with inputs := rest }) hinput

/-- Settles O54: MAXLEN and BUFCAP read the parameters, which `step_params` keeps. -/
theorem parametersAreConstant : Obligations.ParametersAreConstant := by
  intro s t h
  have hp := step_params h
  exact ⟨congrArg Params.maxLen hp, congrArg Params.bufCap hp, hp⟩

end Sys2Proof.Machine
end

/-! PROOFS. Host accesses of BUF, and the accesses that are refused (spec/20_memory.md R42, R43;
spec/70_reset_and_hazards.md R136, R138). -/

section
namespace Sys2Proof.Machine

theorem resolve_bufRead {cap a : Nat} (ha : a < cap) (d : Word) :
    Access.resolve cap ⟨.read, .buf, .w8, a, d⟩ = .ok (.rb a) := by
  simp [Access.resolve, resolveBuf, ha]

theorem resolve_bufWrite {cap a : Nat} (ha : a < cap) (d : Word) :
    Access.resolve cap ⟨.write, .buf, .w8, a, d⟩ = .ok (.wb a (d.setWidth 8)) := by
  simp [Access.resolve, resolveBuf, ha]

/-- Settles O44: an idle block performs the access, and `readByte_writeByte` gives the bytes after the write. -/
theorem hostReachesEveryBufByte : Obligations.HostReachesEveryBufByte := by
  intro s a d rest hready ha
  constructor
  · intro hin
    refine ⟨_, step_of_idle_access hready hin (resolve_bufWrite ha d), rfl, ?_, fun x hx => ?_⟩
    · rw [performOp, readByte_writeByte, if_pos rfl, BitVec.setWidth_eq_extractLsb' (by decide)]
    · rw [performOp, readByte_writeByte, if_neg hx]
      rfl
  · intro hin
    rw [BitVec.ofNat_toNat]
    exact step_of_idle_access hready hin (resolve_bufRead ha d)

/-- The forms that R42 and R43 allow: an access that resolves has one of them. -/
theorem resolve_ok_form {a : Access} {cap : Nat} {op : HostOp} (h : a.resolve cap = .ok op) :
    (a.space = .reg ∧ a.width = .w32 ∧ a.addr % 4 = 0 ∧ a.addr < 0x40) ∨
      (a.space = .buf ∧ a.width = .w8 ∧ a.addr < cap) := by
  unfold Access.resolve at h
  split at h
  next hspace =>
    have hreg : a.width = .w32 ∧ ∃ r, Reg.atOffset a.addr = some r := by
      unfold resolveReg at h
      split at h
      next hwidth hoff _ => exact ⟨hwidth, _, hoff⟩
      next hwidth hoff _ => exact ⟨hwidth, _, hoff⟩
      next => cases h
    obtain ⟨hwidth, r, hr⟩ := hreg
    refine .inl ⟨hspace, hwidth, ?_⟩
    rw [atOffset_eq_some_iff.1 hr]
    exact offset_aligned r
  next hspace =>
    unfold resolveBuf at h
    split_ifs at h with hform
    exact .inr ⟨hspace, hform⟩

/-- The forms that R42 and R43 refuse do not resolve. -/
theorem resolve_error_of_form {a : Access} {cap : Nat}
    (h : (a.space = .reg ∧ (a.width ≠ .w32 ∨ a.addr % 4 ≠ 0 ∨ 0x40 ≤ a.addr)) ∨
      (a.space = .buf ∧ (a.width ≠ .w8 ∨ cap ≤ a.addr))) : ∃ f, a.resolve cap = .error f := by
  cases hop : a.resolve cap with
  | error f => exact ⟨f, rfl⟩
  | ok op =>
    obtain ⟨hspace, hwidth, halign, hlt⟩ | ⟨hspace, hwidth, hlt⟩ := resolve_ok_form hop
    · exact absurd h (by simp [hspace, hwidth, halign, hlt])
    · exact absurd h (by simp [hspace, hwidth, hlt])

theorem hostAccess_of_error {a : Access} {s : State} {f : HostFault}
    (h : a.resolve s.params.bufCap.toNat = .error f) : hostAccess a s = recordFault f s := by
  simp only [hostAccess, h]

/-- Settles O45: a refused form does not resolve, so BUSY is never looked at. -/
theorem refusedAccessRecordsAFault : Obligations.RefusedAccessRecordsAFault := by
  intro s a rest hsafe hin hform
  obtain ⟨f, hf⟩ := resolve_error_of_form hform
  refine ⟨f, ?_⟩
  rw [step_of_input hsafe hin, handle, hostAccess_of_error (s := { s with inputs := rest }) hf]
  rfl

end Sys2Proof.Machine
end

/-! PROOFS. The bytes of BUF a command stores to: those listed for it, all in the buffer when it ends with OK
(spec/20_memory.md R44; spec/10_state.md R33). -/

section
namespace Sys2Proof.Machine

theorem mem_map_add_range {a n x : Nat} : x ∈ (List.range n).map (a + ·) ↔ a ≤ x ∧ x < a + n := by
  rw [← List.range'_eq_map_range, List.mem_range'_1]

/-- A PUT stores to its n bytes at OFF only. -/
theorem memWrite_unlisted {a n x : Nat} (v : Word) (s : State) (hx : x ∉ (List.range n).map (a + ·)) :
    (memWrite a n v s).readByte x = s.readByte x := by
  rw [mem_map_add_range] at hx
  exact readByte_memWrite_outside (by omega)

/-- The frame of a command's writes in BUF. -/
theorem effect_unlisted (i : Instr) (s : State) {x : Nat} (hx : x ∉ mayWrite i s) :
    (effect i s).readByte x = s.readByte x := by
  cases i with
  | csum | get16 | get32 | ip4Len | icmp4Len | ip4ToResponse | icmp4ToResponse => rfl
  | put16 | put32 => exact memWrite_unlisted s.val s hx
  | ip4Marshal => exact ip4Fill_outside (not_lt.1 (mt List.mem_range.2 hx))
  | ip4MarshalPseudo => exact ip4Pseudo_outside (not_lt.1 (mt List.mem_range.2 hx))
  | icmp4Marshal =>
    have hge : 24 ≤ x := not_lt.1 (mt List.mem_range.2 hx)
    exact (embedChecksum_outside (.inr hge)).trans (icmp4Fields_outside hge)

/-- The check of R119 passed. -/
theorem rangeCode_ok {n : Nat} {s : State} (h : rangeCode n s = .ok) :
    s.len.toNat ≤ s.params.bufCap.toNat ∧ s.off.toNat + n ≤ s.len.toNat :=
  (inRange_iff n s).1 ((rangeCode_ok_iff n s).1 h)

/-- The checks of R116 passed. -/
theorem lengthCode_ok {hlen : Nat} {s : State} (h : lengthCode hlen s = .ok) :
    hlen ≤ s.len.toNat ∧ s.len.toNat ≤ s.params.maxLen.toNat := by
  unfold lengthCode at h
  split_ifs at h with hsmall hlarge
  exact ⟨not_lt.1 hsmall, not_lt.1 hlarge⟩

/-- The bytes listed for a command lie in a range that its check has compared with LEN. -/
theorem listed_lt_len {i : Instr} {s : State} (hok : expectedErr i s = .ok) {x : Nat} (hx : x ∈ mayWrite i s) :
    x < s.len.toNat := by
  cases i with
  | csum | get16 | get32 | ip4Len | icmp4Len | ip4ToResponse | icmp4ToResponse => cases hx
  | put16 | put32 =>
    obtain ⟨-, hoff⟩ := rangeCode_ok hok
    obtain ⟨-, hlt⟩ := mem_map_add_range.1 hx
    exact hlt.trans_le hoff
  | ip4Marshal | ip4MarshalPseudo | icmp4Marshal =>
    obtain ⟨hlen, -⟩ := lengthCode_ok hok
    exact (List.mem_range.1 hx).trans_le hlen

/-- A command that stores has compared LEN with BUF_CAP (R119), or with MAX_LEN (R116), which R7 puts below it. -/
theorem len_le_bufCap {i : Instr} {s : State} (hwf : s.params.wf) (hok : expectedErr i s = .ok) {x : Nat}
    (hx : x ∈ mayWrite i s) : s.len.toNat ≤ s.params.bufCap.toNat := by
  obtain ⟨-, -, hcap, -⟩ := hwf
  cases i with
  | csum | get16 | get32 | ip4Len | icmp4Len | ip4ToResponse | icmp4ToResponse => cases hx
  | put16 | put32 =>
    obtain ⟨hlen, -⟩ := rangeCode_ok hok
    exact hlen
  | ip4Marshal | ip4MarshalPseudo | icmp4Marshal =>
    obtain ⟨-, hmax⟩ := lengthCode_ok hok
    exact hmax.trans hcap

/-- Settles O39: an error stores nothing, and a command that ends with OK has passed its check. -/
theorem commandsStoreOnlyListedBytes : Obligations.CommandsStoreOnlyListedBytes := by
  intro i s t h
  obtain ⟨hok, rfl⟩ | ⟨herr, rfl⟩ := exec_next_cases h
  · exact ⟨fun x hx => effect_unlisted i s hx, fun hwf _ x hx => ⟨listed_lt_len hok hx, len_le_bufCap hwf hok hx⟩⟩
  · exact ⟨fun x _ => rfl, fun _ hok => absurd hok herr⟩

end Sys2Proof.Machine
end

/-! PROOFS. Two states that differ in BUF from address n on only: no command whose ranges end at n tells them apart
(spec/20_memory.md R43, R44). -/

section
namespace Sys2Proof.Machine

/-- The two states have the same registers, and the same bytes below n. -/
structure AgreeBelow (n : Nat) (s s' : State) : Prop where
  regs : s' = { s with buf := s'.buf, powerCycle := s'.powerCycle }
  bytes : ∀ a < n, s'.readByte a = s.readByte a

namespace AgreeBelow

section Registers
variable {n : Nat} {s s' : State} (h : AgreeBelow n s s')
include h

theorem len : s'.len = s.len := by rw [h.regs]
theorem off : s'.off = s.off := by rw [h.regs]
theorem cnt : s'.cnt = s.cnt := by rw [h.regs]
theorem val : s'.val = s.val := by rw [h.regs]
theorem proto : s'.proto = s.proto := by rw [h.regs]
theorem ipid : s'.ipid = s.ipid := by rw [h.regs]
theorem srcip : s'.srcip = s.srcip := by rw [h.regs]
theorem dstip : s'.dstip = s.dstip := by rw [h.regs]
theorem icmpType : s'.icmpType = s.icmpType := by rw [h.regs]
theorem icmpCode : s'.icmpCode = s.icmpCode := by rw [h.regs]

/-- The checks of a command look at registers only. -/
theorem expectedErr (i : Instr) : Machine.expectedErr i s' = Machine.expectedErr i s := by
  rw [h.regs]
  cases i <;> rfl

end Registers

section Operations
variable {n : Nat} {s s' : State} (h : AgreeBelow n s s')
include h

theorem memRead {a k : Nat} (hk : a + k ≤ n) : Machine.memRead s'.readByte a k = Machine.memRead s.readByte a k :=
  memRead_congr fun x _ hx => h.bytes x (hx.trans_le hk)

theorem inetSum {a k : Nat} (hk : a + k ≤ n) : Machine.inetSum s'.readByte a k = Machine.inetSum s.readByte a k :=
  inetSum_congr fun x _ hx => h.bytes x (hx.trans_le hk)

theorem memWrite (a k : Nat) (v : Word) : AgreeBelow n (Machine.memWrite a k v s) (Machine.memWrite a k v s') where
  regs := by rw [memWrite_eq a k v s, memWrite_eq a k v s', h.regs]
  bytes x hx := by rw [readByte_memWrite, readByte_memWrite, h.bytes x hx]

theorem setAcc (w : Word) : AgreeBelow n (s.setAcc w) (s'.setAcc w) :=
  ⟨by rw [h.regs]; rfl, h.bytes⟩

theorem setResult (w : Word) : AgreeBelow n (s.setResult w) (s'.setResult w) :=
  ⟨by rw [h.regs]; rfl, h.bytes⟩

theorem swapToResponse : AgreeBelow n (Machine.swapToResponse s) (Machine.swapToResponse s') :=
  ⟨by rw [h.regs]; rfl, h.bytes⟩

theorem endCommand (c : ResultCode) : AgreeBelow n (s.endCommand c) (s'.endCommand c) :=
  ⟨by rw [h.regs]; rfl, h.bytes⟩

theorem embedChecksum {k : Nat} (hk : k ≤ n) (field : Nat) :
    AgreeBelow n (Machine.embedChecksum k field s) (Machine.embedChecksum k field s') := by
  simp only [Machine.embedChecksum, h.inetSum ((Nat.zero_add k).trans_le hk)]
  exact (h.setAcc _).memWrite field 2 _

theorem ip4Fill (p : Byte) (hn : 20 ≤ n) : AgreeBelow n (Machine.ip4Fill p s) (Machine.ip4Fill p s') := by
  refine AgreeBelow.embedChecksum ?_ hn 10
  simp only [ip4Fields, h.len, h.ipid, h.srcip, h.dstip]
  repeat refine AgreeBelow.memWrite ?_ _ _ _
  exact h

theorem ip4Pseudo : AgreeBelow n (Machine.ip4Pseudo s) (Machine.ip4Pseudo s') := by
  simp only [Machine.ip4Pseudo, h.len, h.proto, h.srcip, h.dstip]
  repeat refine AgreeBelow.memWrite ?_ _ _ _
  exact h

theorem icmp4Fields (hn : 20 ≤ n) : AgreeBelow n (Machine.icmp4Fields s) (Machine.icmp4Fields s') := by
  simp only [Machine.icmp4Fields, h.icmpType, h.icmpCode]
  exact (((h.memWrite 20 1 _).memWrite 21 1 _).ip4Fill 1 hn).memWrite 22 2 _

end Operations

/-- A command that has passed its checks reads below LEN only. -/
theorem effect {s s' : State} (h : AgreeBelow s.len.toNat s s') {i : Instr} (hok : Machine.expectedErr i s = .ok) :
    AgreeBelow s.len.toNat (Machine.effect i s) (Machine.effect i s') := by
  cases i with
  | csum =>
    obtain ⟨-, hoff⟩ := rangeCode_ok hok
    simp only [Machine.effect, h.off, h.cnt, h.inetSum hoff]
    exact (h.setAcc _).setResult _
  | get16 | get32 =>
    obtain ⟨-, hoff⟩ := rangeCode_ok hok
    simp only [Machine.effect, h.off, h.memRead hoff]
    exact h.setResult _
  | put16 | put32 =>
    simp only [Machine.effect, h.off, h.val]
    exact h.memWrite _ _ _
  | ip4Len | icmp4Len => exact h.setResult _
  | ip4Marshal =>
    obtain ⟨hlen, -⟩ := lengthCode_ok hok
    simp only [Machine.effect, h.proto]
    exact h.ip4Fill _ hlen
  | ip4MarshalPseudo => exact h.ip4Pseudo
  | icmp4Marshal =>
    obtain ⟨hlen, -⟩ := lengthCode_ok hok
    simp only [Machine.effect, h.len]
    exact (h.icmp4Fields (by omega)).embedChecksum le_rfl 22
  | ip4ToResponse => exact h.swapToResponse
  | icmp4ToResponse => exact AgreeBelow.swapToResponse ⟨by rw [h.regs], h.bytes⟩

theorem endWith {n : Nat} {s s' u u' : State} (h : AgreeBelow n s s') {c : ResultCode}
    (hu : c = .ok → AgreeBelow n u u') : AgreeBelow n (Machine.endWith c s u) (Machine.endWith c s' u') := by
  unfold Machine.endWith
  split
  next hok => exact (hu hok).endCommand c
  next => exact h.endCommand c

end AgreeBelow

/-- Settles O40: the checks see the same registers, and behind them the command's ranges end at LEN. -/
theorem bytesPastLenAreNotRead : Obligations.BytesPastLenAreNotRead := by
  intro i s s' hregs hbytes
  have h : AgreeBelow s.len.toNat s s' := ⟨hregs, hbytes⟩
  have hend := h.endWith (c := expectedErr i s) h.effect
  refine ⟨_, _, exec_eq_effect i s, exec_eq_effect i s', ?_⟩
  rw [h.expectedErr]
  exact ⟨hend.regs, hend.bytes⟩

end Sys2Proof.Machine
end

/-! PROOFS. The encoding of commands: `decode` inverts `encode`, and the words that decode are those of the opcode map
(spec/30_encoding.md R61-R63, R65, R72). -/

section
namespace Sys2Proof

theorem decode_encode (i : Instr) : decode (encode i) = .ok i := by cases i <;> rfl

theorem encode_toNat (i : Instr) : (encode i).toNat = (opcode i).toNat :=
  BitVec.toNat_setWidth_of_le (by decide)

/-- A command word is the concatenation of RSV, UNIT and OP (R61). -/
theorem toNat_eq_fields (w : Word) :
    w.toNat = 2 ^ 8 * (rsvField w).toNat + (16 * (unitField w).toNat + (opField w).toNat) := by
  have hw := w.isLt
  simp only [rsvField, unitField, opField, BitVec.extractLsb'_toNat, Nat.shiftRight_eq_div_pow]
  omega

theorem opcode_of_decodeUnit0 {op : Nat} {i : Instr} (h : decodeUnit0 op = some i) : (opcode i).toNat = op := by
  unfold decodeUnit0 at h
  split at h <;> cases h <;> rfl

theorem opcode_of_decodeUnit1 {op : Nat} {i : Instr} (h : decodeUnit1 op = some i) :
    (opcode i).toNat = 16 + op := by
  unfold decodeUnit1 at h
  split at h <;> cases h <;> rfl

theorem opcode_of_decodeUnit2 {op : Nat} {i : Instr} (h : decodeUnit2 op = some i) :
    (opcode i).toNat = 32 + op := by
  unfold decodeUnit2 at h
  split at h <;> cases h <;> rfl

/-- Only the two halves of its own opcode decode to a command (R63). -/
theorem opcode_of_decodeFields {unit op : BitVec 4} {i : Instr} (h : decodeFields unit op = some i) :
    (opcode i).toNat = 16 * unit.toNat + op.toNat := by
  unfold decodeFields at h
  split at h
  next hunit => rw [hunit, opcode_of_decodeUnit0 h, Nat.mul_zero, Nat.zero_add]
  next hunit => rw [hunit, opcode_of_decodeUnit1 h]
  next hunit => rw [hunit, opcode_of_decodeUnit2 h]
  next => cases h

/-- A word that decodes has RSV = 0 and passes the opcode map. -/
theorem fields_of_decode {w : Word} {i : Instr} (h : decode w = .ok i) :
    rsvField w = 0#24 ∧ decodeFields (unitField w) (opField w) = some i := by
  unfold decode at h
  split at h
  next hrsv =>
    split at h
    next j hfields =>
      cases h
      exact ⟨hrsv, hfields⟩
    next => cases h
  next => cases h

theorem decode_eq_ok_iff {w : Word} {i : Instr} : decode w = .ok i ↔ w = encode i := by
  constructor
  · intro h
    obtain ⟨hrsv, hfields⟩ := fields_of_decode h
    apply BitVec.eq_of_toNat_eq
    rw [toNat_eq_fields, hrsv, encode_toNat, opcode_of_decodeFields hfields, BitVec.toNat_zero, Nat.mul_zero,
      Nat.zero_add]
  · rintro rfl
    exact decode_encode i

/-- The rows of the opcode map (R63). -/
def commands : List Instr :=
  [.csum, .get16, .get32, .put16, .put32, .ip4Len, .ip4Marshal, .ip4MarshalPseudo, .ip4ToResponse, .icmp4Len,
    .icmp4Marshal, .icmp4ToResponse]

theorem mem_commands (i : Instr) : i ∈ commands := by cases i <;> decide

/-- The opcode column of R63, as numbers. -/
def opcodes : List Nat :=
  [0x01, 0x02, 0x03, 0x04, 0x05, 0x10, 0x11, 0x12, 0x13, 0x20, 0x21, 0x22]

theorem opcodes_eq_map : opcodes = commands.map fun i => (opcode i).toNat := rfl

theorem mem_opcodes_iff {n : Nat} : n ∈ opcodes ↔ ∃ i, (opcode i).toNat = n := by
  simp only [opcodes_eq_map, List.mem_map, mem_commands, true_and]

/-- The word of a command has RSV = 0 and the command's opcode in its low byte (R61). -/
theorem eq_encode_iff {w : Word} {i : Instr} :
    w = encode i ↔ w.toNat / 2 ^ 8 = 0 ∧ (opcode i).toNat = w.toNat % 2 ^ 8 := by
  have hop := (opcode i).isLt
  rw [← BitVec.toNat_inj, encode_toNat]
  omega

/-- The domain of the decoder (R63, R72). -/
theorem exists_decode_ok_iff (w : Word) :
    (∃ i, decode w = .ok i) ↔ w.toNat / 2 ^ 8 = 0 ∧ w.toNat % 2 ^ 8 ∈ opcodes := by
  simp only [decode_eq_ok_iff, eq_encode_iff, exists_and_left, mem_opcodes_iff]

/-- Settles O2: `decode_eq_ok_iff` is the round trip in both directions. -/
theorem decodeAndEncodeAgree : Obligations.DecodeAndEncodeAgree :=
  ⟨decode_encode, fun _ _ => decode_eq_ok_iff.1, exists_decode_ok_iff⟩

theorem exists_decode_error_iff (w : Word) : (∃ r, decode w = .error r) ↔ ¬ ∃ i, decode w = .ok i := by
  cases decode w <;> simp

/-- The numbers that are no opcode, as the ranges of R65. -/
theorem not_mem_opcodes_iff {n : Nat} :
    n ∉ opcodes ↔ n = 0x00 ∨ (0x06 ≤ n ∧ n ≤ 0x0F) ∨ (0x14 ≤ n ∧ n ≤ 0x1F) ∨ 0x23 ≤ n := by
  simp only [opcodes, List.mem_cons, List.not_mem_nil, or_false]
  omega

/-- A word that does not decode, whatever the reason, ends at once with ILLEGAL_CMD (R62, R118). -/
theorem runWord_of_decode_error {w : Word} {r : Reject} (h : decode w = .error r) (s : Machine.State) :
    Machine.runWord w s = .next { s with err := .illegalCmd, inFlight := none } := by
  rw [← Machine.raise_eq, Machine.runWord, h]

/-- Settles O3: the complement of the decoder's domain; `runWord` does not look at why the word was rejected. -/
theorem illegalWordsAreTheComplement : Obligations.IllegalWordsAreTheComplement := by
  refine fun w => ⟨?_, fun ⟨_, hr⟩ => runWord_of_decode_error hr⟩
  rw [exists_decode_error_iff, exists_decode_ok_iff, not_and_or, not_mem_opcodes_iff]

/-- Settles O1: the twelve words are the encodings of the twelve commands. -/
theorem opcodeMapWordsDecode : Obligations.OpcodeMapWordsDecode :=
  ⟨decode_encode .csum, decode_encode .get16, decode_encode .get32, decode_encode .put16, decode_encode .put32,
    decode_encode .ip4Len, decode_encode .ip4Marshal, decode_encode .ip4MarshalPseudo, decode_encode .ip4ToResponse,
    decode_encode .icmp4Len, decode_encode .icmp4Marshal, decode_encode .icmp4ToResponse⟩

end Sys2Proof
end

/-! PROOFS. Host-script lines as bus transactions (spec/30_encoding.md R70; spec/20_memory.md R42, R43). -/

section
namespace Sys2Proof.Machine

/-- The byte of a `wb` line is the low byte of its data word. -/
theorem resolve_wbLine {cap a : Nat} (ha : a < cap) (b : Byte) :
    (HostOp.wb a b).toAccess.resolve cap = .ok (.wb a b) := by
  have hbyte : (b.setWidth 32).setWidth 8 = b := by
    rw [BitVec.setWidth_setWidth_of_le b (by decide), BitVec.setWidth_eq]
  rw [HostOp.toAccess, resolve_bufWrite ha, hbyte]

/-- Settles O4: one resolution rule per line of R68. -/
theorem scriptLinesAreTransactions : Obligations.ScriptLinesAreTransactions :=
  ⟨resolve_regWrite, fun cap r => resolve_regRead cap r 0, fun _ _ b ha => resolve_wbLine ha b,
    fun _ _ ha => resolve_bufRead ha 0⟩

end Sys2Proof.Machine
end

/-! PROOFS. Sums of big-endian words as naturals, and InetSum as such a sum (spec/40_checksum.md R73, R82). -/

section
namespace Sys2Proof.Machine

/-- A range of even length with another range behind it. -/
theorem wordSum_add (byte : Nat → Byte) (a m n : Nat) :
    wordSum byte a (2 * m + n) = wordSum byte a (2 * m) + wordSum byte (a + 2 * m) n := by
  have hwords : (2 * m + n + 1) / 2 = m + (n + 1) / 2 := by omega
  have hfirst : (2 * m + 1) / 2 = m := by omega
  have hhead : (List.range m).map (wordAt byte a (2 * m + n)) = (List.range m).map (wordAt byte a (2 * m)) := by
    refine List.map_congr_left fun j hj => ?_
    have hj := List.mem_range.1 hj
    rw [wordAt, wordAt, if_pos (by omega), if_pos (by omega)]
  have htail (j : Nat) : wordAt byte a (2 * m + n) (m + j) = wordAt byte (a + 2 * m) n j := by
    have haddr : a + 2 * (m + j) = a + 2 * m + 2 * j := by omega
    have hends : 2 * (m + j) + 1 < 2 * m + n ↔ 2 * j + 1 < n := by omega
    simp only [wordAt, haddr, hends]
  simp only [wordSum, hwords, hfirst, List.range_add, List.map_append, List.sum_append, List.map_map, hhead,
    Function.comp_def, htail]

@[simp] theorem wordSum_zero (byte : Nat → Byte) (a : Nat) : wordSum byte a 0 = 0 := rfl

/-- The last word of an odd range: its byte is the high one (R82). -/
@[simp] theorem wordSum_one (byte : Nat → Byte) (a : Nat) : wordSum byte a 1 = (byte a).toNat * 256 := by
  simp [wordSum, wordAt]

@[simp] theorem wordSum_two (byte : Nat → Byte) (a : Nat) :
    wordSum byte a 2 = (byte a).toNat * 256 + (byte (a + 1)).toNat := by
  simp [wordSum, wordAt]

theorem wordSum_step (byte : Nat → Byte) (a n : Nat) :
    wordSum byte a (n + 2) = (memRead byte a 2).toNat + wordSum byte (a + 2) n := by
  rw [Nat.add_comm n 2, wordSum_add byte a 1 n, wordSum_two, memRead_two_toNat]

/-- A word sum depends only on the bytes of its range. -/
theorem wordSum_congr {f g : Nat → Byte} {a n : Nat} (h : ∀ x, a ≤ x → x < a + n → f x = g x) :
    wordSum f a n = wordSum g a n := by
  refine congrArg List.sum (List.map_congr_left fun j hj => ?_)
  have hj := List.mem_range.1 hj
  rw [wordAt, wordAt, h (a + 2 * j) (by omega) (by omega)]
  split
  next hlow => rw [h (a + 2 * j + 1) (by omega) (by omega)]
  next => rfl

theorem wordAt_le (byte : Nat → Byte) (a n j : Nat) : wordAt byte a n j ≤ 0xFFFF := by
  have hhigh := (byte (a + 2 * j)).isLt
  have hlow := (byte (a + 2 * j + 1)).isLt
  unfold wordAt
  split <;> omega

/-- 65537 words of at most 0xFFFF each stay below 2^32 (R82). -/
theorem wordSum_lt {n : Nat} (hn : n ≤ 131074) (byte : Nat → Byte) (a : Nat) : wordSum byte a n < 2 ^ 32 := by
  have hsum : wordSum byte a n ≤ (n + 1) / 2 * 0xFFFF := by
    simpa [wordSum] using List.sum_le_card_nsmul ((List.range ((n + 1) / 2)).map (wordAt byte a n)) 0xFFFF
      (List.forall_mem_map.2 fun j _ => wordAt_le byte a n j)
  omega

theorem wordSum_eq_zero_iff (byte : Nat → Byte) (a n : Nat) :
    wordSum byte a n = 0 ↔ ∀ j < (n + 1) / 2, wordAt byte a n j = 0 := by
  simp only [wordSum, List.sum_eq_zero_iff, List.forall_mem_map, List.mem_range]

/-- InetSum takes its words one by one, as the word sum does, and drops what does not fit 32 bits (R73). -/
theorem inetSum_toNat (byte : Nat → Byte) (a n : Nat) :
    (inetSum byte a n).toNat = wordSum byte a n % 2 ^ 32 := by
  induction n using Nat.twoStepInduction generalizing a with
  | zero => rfl
  | one =>
    have hbyte := (byte a).isLt
    rw [inetSum_one, wordSum_one, BitVec.toNat_shiftLeft, BitVec.toNat_setWidth, Nat.shiftLeft_eq]
    omega
  | more n ih _ =>
    rw [inetSum_step, wordSum_step, BitVec.toNat_add, ih, Nat.add_mod_mod]

theorem inetSum_toNat_of_lt {byte : Nat → Byte} {a n : Nat} (h : wordSum byte a n < 2 ^ 32) :
    (inetSum byte a n).toNat = wordSum byte a n := by
  rw [inetSum_toNat, Nat.mod_eq_of_lt h]

/-- Settles O12: the two sums take the same words, and 131074 bytes do not wrap. -/
theorem inetSumIsTheWordSum : Obligations.InetSumIsTheWordSum :=
  fun byte a n => ⟨inetSum_toNat byte a n, fun hn => inetSum_toNat_of_lt (wordSum_lt hn byte a)⟩

end Sys2Proof.Machine
end

/-! PROOFS. Fold and its closed form (spec/40_checksum.md R74, R76, R77). -/

section
namespace Sys2Proof.Machine

theorem foldedSum_le (n : Nat) : foldedSum n ≤ 0xFFFF := by
  unfold foldedSum
  split <;> omega

@[simp] theorem foldedSum_eq_zero_iff {n : Nat} : foldedSum n = 0 ↔ n = 0 := by
  unfold foldedSum
  split <;> omega

@[simp] theorem foldedSum_mod (n : Nat) : foldedSum n % 0xFFFF = n % 0xFFFF := by
  unfold foldedSum
  split <;> omega

/-- The other zero of the arithmetic (R76). -/
theorem foldedSum_eq_ones_iff {n : Nat} : foldedSum n = 0xFFFF ↔ 0 < n ∧ n % 0xFFFF = 0 := by
  unfold foldedSum
  split <;> omega

/-- What a folded sum knows of a total: its residue, and whether it is 0. -/
theorem foldedSum_congr {m n : Nat} (hzero : m = 0 ↔ n = 0) (hmod : m % 0xFFFF = n % 0xFFFF) :
    foldedSum m = foldedSum n := by
  have hm := foldedSum_le m
  have hn := foldedSum_le n
  have hmz := foldedSum_eq_zero_iff (n := m)
  have hnz := foldedSum_eq_zero_iff (n := n)
  have hmr := foldedSum_mod m
  have hnr := foldedSum_mod n
  omega

/-- The total of two pieces may be folded piece by piece (R81). -/
theorem foldedSum_add (m n : Nat) : foldedSum (foldedSum m + foldedSum n) = foldedSum (m + n) := by
  refine foldedSum_congr ?_ ?_
  · simp only [Nat.add_eq_zero_iff, foldedSum_eq_zero_iff]
  · rw [Nat.add_mod, foldedSum_mod, foldedSum_mod, ← Nat.add_mod]

/-- An end-around carry keeps the residue, since 0x10000 is 1 mod 0xFFFF. -/
theorem foldedSum_halves (n : Nat) : foldedSum (n / 0x10000 + n % 0x10000) = foldedSum n :=
  foldedSum_congr (by omega) (by omega)

/-- Adding the other zero changes no total but 0 (R81). -/
theorem foldedSum_ones_add {n : Nat} (hn : n ≠ 0) : foldedSum (0xFFFF + n) = foldedSum n :=
  foldedSum_congr (by omega) (by omega)

theorem foldedSum_of_le {n : Nat} (hn : n ≤ 0xFFFF) : foldedSum n = n := by
  unfold foldedSum
  split <;> omega

theorem fold_of_le {acc : Word} (h : acc.toNat ≤ 0xFFFF) : fold acc = acc := by
  rw [fold, foldLoop, if_pos ((highHalf_zero_iff acc).2 h)]

/-- The loop of Fold, as far as its bound goes, keeps the folded sum. -/
theorem foldedSum_foldLoop (fuel : Nat) (acc : Word) :
    foldedSum (foldLoop fuel acc).toNat = foldedSum acc.toNat := by
  induction fuel generalizing acc with
  | zero => rfl
  | succ fuel ih =>
    rw [foldLoop]
    split
    next => rfl
    next => rw [ih, foldStep_toNat, foldedSum_halves]

/-- The closed form of Fold (R76): the loop ends with 16 bits, where a sum is its own folded sum. -/
theorem fold_toNat (acc : Word) : (fold acc).toNat = foldedSum acc.toNat := by
  rw [← foldedSum_of_le (fold_toNat_le acc), fold, foldedSum_foldLoop]

theorem fold_congr {x y : Word} (h : foldedSum x.toNat = foldedSum y.toNat) : fold x = fold y := by
  rw [← BitVec.toNat_inj, fold_toNat, fold_toNat, h]

/-- Settles O13: adding the halves keeps the folded sum, and with it what Fold answers. -/
theorem foldIsTheCarryLoop : Obligations.FoldIsTheCarryLoop := by
  intro acc
  have hacc := acc.isLt
  have hhalves : acc.toNat / 0x10000 + acc.toNat % 0x10000 ≤ 0x1FFFE := by omega
  refine ⟨fold_of_le, fun _ => fold_congr ?_, hhalves, by omega, fold_toNat_le acc⟩
  rw [BitVec.toNat_ofNat, Nat.mod_eq_of_lt (by omega), foldedSum_halves]

end Sys2Proof.Machine
end

/-! PROOFS. Checksum as the complement of a folded word sum (spec/40_checksum.md R75, R76, R80, R81). -/

section
namespace Sys2Proof.Machine

theorem fold_inetSum_toNat {byte : Nat → Byte} {a n : Nat} (h : wordSum byte a n < 2 ^ 32) :
    (fold (inetSum byte a n)).toNat = foldedSum (wordSum byte a n) := by
  rw [fold_toNat, inetSum_toNat_of_lt h]

theorem checksum_toNat {n : Nat} (hn : n ≤ 131074) (byte : Nat → Byte) (a : Nat) :
    (checksum byte a n).toNat = 0xFFFF - foldedSum (wordSum byte a n) := by
  have hle := foldedSum_le (wordSum byte a n)
  rw [checksum, complement16_toNat, fold_inetSum_toNat (wordSum_lt hn byte a), Nat.mod_eq_of_lt (by omega)]

theorem checksum_eq_ones_iff {n : Nat} (hn : n ≤ 131074) (byte : Nat → Byte) (a : Nat) :
    checksum byte a n = 0xFFFF ↔ wordSum byte a n = 0 := by
  have hle := foldedSum_le (wordSum byte a n)
  rw [← foldedSum_eq_zero_iff, ← BitVec.toNat_inj, checksum_toNat hn]
  bv_omega

theorem checksum_eq_zero_iff {n : Nat} (hn : n ≤ 131074) (byte : Nat → Byte) (a : Nat) :
    checksum byte a n = 0 ↔ 0 < wordSum byte a n ∧ wordSum byte a n % 0xFFFF = 0 := by
  have hle := foldedSum_le (wordSum byte a n)
  rw [← foldedSum_eq_ones_iff, ← BitVec.toNat_inj, checksum_toNat hn]
  bv_omega

/-- Settles O14: Checksum is 0xFFFF minus the folded sum, so it shows where that is 0 and where it is 0xFFFF. -/
theorem checksumClosedForm : Obligations.ChecksumClosedForm := by
  refine ⟨fun acc => ⟨fold_toNat acc, ?_⟩, fun byte a n hn => ⟨?_, checksum_eq_zero_iff hn byte a⟩⟩
  · rw [fold_toNat, foldedSum_mod]
  · rw [checksum_eq_ones_iff hn, wordSum_eq_zero_iff]

/-- The word sum of a range, taken apart at one of its words. -/
theorem wordSum_split_at (byte : Nat → Byte) (a : Nat) {n j : Nat} (hj : 2 * j + 1 < n) :
    wordSum byte a n = wordSum byte a (2 * j) + (wordSum byte (a + 2 * j) 2 +
      wordSum byte (a + 2 * j + 2) (n - (2 * j + 2))) := by
  obtain ⟨r, rfl⟩ : ∃ r, n = 2 * j + (2 * 1 + r) := ⟨n - (2 * j + 2), by omega⟩
  rw [wordSum_add, wordSum_add]
  congr 3
  omega

/-- A two-byte MemWrite stores the low half of its word as one big-endian word. -/
theorem wordSum_memWrite_same (a : Nat) (v : Word) (s : State) :
    wordSum (memWrite a 2 v s).readByte a 2 = v.toNat % 0x10000 := by
  rw [wordSum_two, readByte_memWrite, if_pos (by omega), readByte_memWrite, if_pos (by omega)]
  simp [BitVec.extractLsb'_toNat, Nat.shiftRight_eq_div_pow]
  omega

theorem wordSum_memWrite_outside {a n b k : Nat} (v : Word) (s : State) (h : b + k ≤ a ∨ a + n ≤ b) :
    wordSum (memWrite a n v s).readByte b k = wordSum s.readByte b k :=
  wordSum_congr fun _ _ _ => readByte_memWrite_outside (by omega)

/-- A 16-bit value written over an aligned word that is 0 adds itself to the range's word sum. -/
theorem wordSum_memWrite_field {s : State} {a n j : Nat} (hj : 2 * j + 1 < n) (hhigh : s.readByte (a + 2 * j) = 0)
    (hlow : s.readByte (a + 2 * j + 1) = 0) (v : Half) :
    wordSum (memWrite (a + 2 * j) 2 (v.setWidth 32) s).readByte a n = wordSum s.readByte a n + v.toNat := by
  have hv := v.isLt
  rw [wordSum_split_at _ a hj, wordSum_split_at s.readByte a hj, wordSum_memWrite_outside _ _ (.inl le_rfl),
    wordSum_memWrite_outside _ _ (.inr le_rfl), wordSum_memWrite_same, wordSum_two s.readByte, hhigh, hlow,
    BitVec.toNat_setWidth_of_le (by decide), Nat.mod_eq_of_lt hv]
  bv_omega

/-- A total and the complement of its folded sum make a multiple of 0xFFFF (R80). -/
theorem add_complement_mod (n : Nat) : (n + (0xFFFF - foldedSum n)) % 0xFFFF = 0 := by
  have hle := foldedSum_le n
  have hmod := foldedSum_mod n
  omega

/-- A range with its checksum in an aligned field sums to a nonzero multiple of 0xFFFF (R80). -/
theorem checksum_embedded {s : State} {a n j : Nat} (hn : n ≤ 131074) (hj : 2 * j + 1 < n)
    (hhigh : s.readByte (a + 2 * j) = 0) (hlow : s.readByte (a + 2 * j + 1) = 0)
    (hpos : fold (inetSum s.readByte a n) ≠ 0) :
    checksum (memWrite (a + 2 * j) 2 ((checksum s.readByte a n).setWidth 32) s).readByte a n = 0 := by
  have hsum : wordSum s.readByte a n ≠ 0 := by
    rw [Ne, ← foldedSum_eq_zero_iff, ← fold_inetSum_toNat (wordSum_lt hn _ _)]
    exact fun h => hpos (BitVec.eq_of_toNat_eq h)
  rw [checksum_eq_zero_iff hn, wordSum_memWrite_field hj hhigh hlow, checksum_toNat hn]
  exact ⟨by omega, add_complement_mod _⟩

/-- Four bytes whose middle two are 0: a field at an odd distance from 0. -/
def oddFieldState : State := { State.reset with buf := [(0, 0x12), (1, 0x00), (2, 0x00), (3, 0x34)] }

/-- Settles O15: an aligned field adds the checksum as one word; at an odd distance its bytes fall into two words,
swapped, and 12 ED CB 34 sums to 0xDE21. -/
theorem checksumSelfValidates : Obligations.ChecksumSelfValidates :=
  ⟨fun _ _ _ _ => checksum_embedded, oddFieldState, 0, 4, 0, by decide⟩

/-- Folding a range in two pieces, the first of even length, with no wrap in the whole (R81). -/
theorem fold_inetSum_add {byte : Nat → Byte} {a m n : Nat} (hlt : wordSum byte a (2 * m + n) < 2 ^ 32) :
    fold (inetSum byte a (2 * m + n)) =
      fold (fold (inetSum byte a (2 * m)) + fold (inetSum byte (a + 2 * m) n)) := by
  have hsplit := wordSum_add byte a m n
  have hle1 := foldedSum_le (wordSum byte a (2 * m))
  have hle2 := foldedSum_le (wordSum byte (a + 2 * m) n)
  rw [← BitVec.toNat_inj, fold_inetSum_toNat hlt, fold_toNat, BitVec.toNat_add, fold_inetSum_toNat (by omega),
    fold_inetSum_toNat (by omega), Nat.mod_eq_of_lt (by omega), foldedSum_add, hsplit]

/-- A piece whose folded sum is 0xFFFF, added to another's (R81). -/
theorem fold_ones_add {x : Word} (hx : x.toNat ≤ 0xFFFF) : fold (0xFFFF + x) = if x = 0 then 0xFFFF else x := by
  split
  next hzero => rw [hzero]; rfl
  next hne =>
    have hpos : x.toNat ≠ 0 := fun h => hne (BitVec.eq_of_toNat_eq h)
    have hnowrap : (0xFFFF + x).toNat = 0xFFFF + x.toNat := by bv_omega
    rw [← BitVec.toNat_inj, fold_toNat, hnowrap, foldedSum_ones_add hpos, foldedSum_of_le hx]

/-- Settles O16: the word sum splits at an even length, and folding may be done piece by piece. -/
theorem checksumSplits : Obligations.ChecksumSplits := by
  refine ⟨fun byte a n1 n2 heven hlt => ?_, fun x hx => fold_ones_add hx⟩
  obtain ⟨m, rfl⟩ := Nat.dvd_of_mod_eq_zero heven
  exact fold_inetSum_add hlt

end Sys2Proof.Machine
end

/-! PROOFS. CSUM (spec/40_checksum.md R78). -/

section
namespace Sys2Proof.Machine

theorem fold_inetSum_eq {n : Nat} (hn : n ≤ 131074) (byte : Nat → Byte) (a : Nat) :
    fold (inetSum byte a n) = BitVec.ofNat 32 (foldedSum (wordSum byte a n)) := by
  rw [← fold_inetSum_toNat (wordSum_lt hn byte a), BitVec.ofNat_toNat, BitVec.setWidth_eq]

theorem checksum_setWidth_eq {n : Nat} (hn : n ≤ 131074) (byte : Nat → Byte) (a : Nat) :
    (checksum byte a n).setWidth 32 = BitVec.ofNat 32 (0xFFFF - foldedSum (wordSum byte a n)) := by
  rw [← checksum_toNat hn, BitVec.ofNat_toNat]

/-- What CSUM leaves in ACC and RESULT, in the words of R78. -/
theorem effect_csum {s : State} (hcnt : s.cnt.toNat ≤ 131074) :
    effect .csum s = { s with
      acc := BitVec.ofNat 32 (foldedSum (wordSum s.readByte s.off.toNat s.cnt.toNat))
      result := BitVec.ofNat 32 (0xFFFF - foldedSum (wordSum s.readByte s.off.toNat s.cnt.toNat)) } := by
  rw [← fold_inetSum_eq hcnt, ← checksum_setWidth_eq hcnt]
  rfl

/-- Settles O17: CSUM's check of R119 decides between the two cases, and R7 keeps CNT within 131074. -/
theorem csumComputesTheChecksum : Obligations.CsumComputesTheChecksum := by
  refine ⟨decode_encode .csum, fun s hwf => ⟨fun hout => ?_, fun hin => ?_⟩⟩
  · have hcode : expectedErr .csum s = .rangeError := if_pos hout
    rw [exec_eq_effect, hcode, endWith_error (by decide)]
    rfl
  · have hcode : expectedErr .csum s = .ok := (rangeCode_ok_iff _ s).2 ((inRange_iff _ s).2 hin)
    obtain ⟨-, -, -, hcap⟩ := hwf
    obtain ⟨hlen, hoff⟩ := hin
    rw [exec_eq_effect, hcode, endWith_ok, effect_csum (by omega)]
    rfl

end Sys2Proof.Machine
end

/-! SUPPORT. MemRead and MemWrite as inverses of each other: each byte of a big-endian value has its own bits
(spec/20_memory.md R45; spec/00_scope.md R10). -/

section
namespace Sys2Proof.Machine

/-- A MemRead of two bytes as the word of its big-endian value. -/
theorem memRead_two_eq (f : Nat → Byte) (a : Nat) :
    memRead f a 2 = BitVec.ofNat 32 ((f a).toNat * 2 ^ 8 + (f (a + 1)).toNat) := by
  rw [show 2 ^ 8 = 256 from rfl, ← memRead_two_toNat, BitVec.ofNat_toNat, BitVec.setWidth_eq]

/-- A four-byte MemRead as a natural number: each byte in front of the rest. -/
theorem memRead_four_toNat (f : Nat → Byte) (a : Nat) :
    (memRead f a 4).toNat = (f a).toNat * 2 ^ 24 + (f (a + 1)).toNat * 2 ^ 16 +
      (f (a + 2)).toNat * 2 ^ 8 + (f (a + 3)).toNat := by
  rw [(memRead_toNat f a (k := 3) (by omega)).1, (memRead_toNat f (a + 1) (k := 2) (by omega)).1,
    memRead_two_toNat f (a + 2)]
  ring

/-- A MemRead of four bytes as the word of its big-endian value. -/
theorem memRead_four_eq (f : Nat → Byte) (a : Nat) :
    memRead f a 4 = BitVec.ofNat 32 ((f a).toNat * 2 ^ 24 + (f (a + 1)).toNat * 2 ^ 16 +
      (f (a + 2)).toNat * 2 ^ 8 + (f (a + 3)).toNat) := by
  rw [← memRead_four_toNat, BitVec.ofNat_toNat, BitVec.setWidth_eq]

/-- The bits of a MemRead: bit i lies in the byte i / 8 places before the last one. -/
theorem getLsbD_memRead (f : Nat → Byte) (a n : Nat) {i : Nat} (hi : i < 32) :
    (memRead f a n).getLsbD i = (decide (i < 8 * n) && (f (a + (n - 1 - i / 8))).getLsbD (i % 8)) := by
  induction n generalizing a with
  | zero => simp [memRead]
  | succ k ih =>
    rw [memRead, BitVec.getLsbD_or, ih (a + 1), BitVec.getLsbD_shiftLeft, BitVec.getLsbD_setWidth]
    by_cases hlow : i < 8 * k
    · have haddr : a + 1 + (k - 1 - i / 8) = a + (k + 1 - 1 - i / 8) := by omega
      simp [hlow, haddr, show i < 8 * (k + 1) by omega]
    · by_cases hfirst : i < 8 * (k + 1)
      · have haddr : a + (k - i / 8) = a := by omega
        have hbit : i - 8 * k = i % 8 := by omega
        simp [hlow, hfirst, hi, haddr, hbit, show i % 8 < 32 by omega]
      · simp [hlow, hfirst, show 8 ≤ i - 8 * k by omega]

/-- Reading n bytes from the j-th on of N bytes just written gives their bits of the written value. -/
theorem memRead_memWrite {N j n : Nat} (hj : j + n ≤ N) (a : Nat) (v : Word) (s : State) :
    memRead (memWrite a N v s).readByte (a + j) n =
      (v.extractLsb' (8 * (N - (j + n))) (8 * n)).setWidth 32 := by
  refine BitVec.eq_of_getLsbD_eq fun i hi => ?_
  rw [getLsbD_memRead _ _ _ hi, BitVec.getLsbD_setWidth, BitVec.getLsbD_extractLsb']
  by_cases hin : i < 8 * n
  · have hbit : 8 * (N - 1 - (a + j + (n - 1 - i / 8) - a)) + i % 8 = 8 * (N - (j + n)) + i := by omega
    rw [readByte_memWrite, if_pos (by omega), BitVec.getLsbD_extractLsb', hbit]
    simp [hin, hi, Nat.mod_lt]
  · simp [hin]

/-- Byte k of a MemRead of at most four bytes is the k-th byte read. -/
theorem extractLsb'_memRead {n k : Nat} (hn : n ≤ 4) (hk : k < n) (f : Nat → Byte) (a : Nat) :
    (memRead f a n).extractLsb' (8 * (n - 1 - k)) 8 = f (a + k) := by
  refine BitVec.eq_of_getLsbD_eq fun i hi => ?_
  have haddr : a + (n - 1 - (8 * (n - 1 - k) + i) / 8) = a + k := by omega
  have hbit : (8 * (n - 1 - k) + i) % 8 = i := by omega
  rw [BitVec.getLsbD_extractLsb', getLsbD_memRead _ _ _ (by omega), haddr, hbit]
  simp [hi, show 8 * (n - 1 - k) + i < 8 * n by omega]

/-- Writing back what has been read changes no byte. -/
theorem readByte_memWrite_of_memRead {n a : Nat} {v : Word} {s : State} (hn : n ≤ 4)
    (hv : v = memRead s.readByte a n) (x : Nat) : (memWrite a n v s).readByte x = s.readByte x := by
  rw [readByte_memWrite, hv]
  split
  next hx => rw [extractLsb'_memRead hn (by omega), show a + (x - a) = x by omega]
  next => rfl

/-- The bytes a MemWrite leaves in its range, most significant first. -/
theorem bytesAt_memWrite (a n : Nat) (v : Word) (s : State) :
    bytesAt (memWrite a n v s) a n = (List.range n).map fun k => v.extractLsb' (8 * (n - 1 - k)) 8 := by
  refine List.map_congr_left fun k hk => ?_
  have hk := List.mem_range.1 hk
  rw [readByte_memWrite, if_pos (by omega), Nat.add_sub_cancel_left]

end Sys2Proof.Machine
end

/-! PROOFS. The codec, for any number of bytes at once: GET and PUT of n bytes at OFF, and their round trips
(spec/41_codec.md R83-R88). -/

section
namespace Sys2Proof.Machine

section Codec
variable {n : Nat} {s : State}

theorem not_inRange_of_outside (h : s.params.bufCap.toNat < s.len.toNat ∨ s.len.toNat < s.off.toNat + n) :
    ¬ inRange n s = true := by
  rw [inRange_iff]
  omega

theorem getBytes_of_outside (h : s.params.bufCap.toNat < s.len.toNat ∨ s.len.toNat < s.off.toNat + n) :
    getBytes n s = .next { s with err := .rangeError, inFlight := none } :=
  if_neg (not_inRange_of_outside h)

theorem putBytes_of_outside (h : s.params.bufCap.toNat < s.len.toNat ∨ s.len.toNat < s.off.toNat + n) :
    putBytes n s = .next { s with err := .rangeError, inFlight := none } :=
  if_neg (not_inRange_of_outside h)

theorem getBytes_of_inRange (h : s.len.toNat ≤ s.params.bufCap.toNat ∧ s.off.toNat + n ≤ s.len.toNat) :
    getBytes n s =
      .next { s with result := memRead s.readByte s.off.toNat n, err := .ok, inFlight := none } :=
  if_pos ((inRange_iff n s).2 h)

theorem putBytes_of_inRange (h : s.len.toNat ≤ s.params.bufCap.toNat ∧ s.off.toNat + n ≤ s.len.toNat) :
    putBytes n s = .next ((memWrite s.off.toNat n s.val s).endCommand .ok) :=
  if_pos ((inRange_iff n s).2 h)

/-- What PUT does within its range: n bytes of VAL at OFF, STATUS, and nothing else. -/
theorem putBytes_writes_bigEndian (h : s.len.toNat ≤ s.params.bufCap.toNat ∧ s.off.toNat + n ≤ s.len.toNat) :
    ∃ t, putBytes n s = .next t ∧ t = { s with buf := t.buf, err := .ok, inFlight := none } ∧
      bytesAt t s.off.toNat n = ((List.range n).map fun k => s.val.extractLsb' (8 * (n - 1 - k)) 8) ∧
      ∀ a, a < s.off.toNat ∨ s.off.toNat + n ≤ a → t.readByte a = s.readByte a :=
  ⟨_, putBytes_of_inRange h, endCommand_of_buf (memWrite_eq _ _ _ _) .ok, bytesAt_memWrite _ _ _ s,
    fun _ ha => readByte_memWrite_outside ha⟩

end Codec

/-- Settles O18: GET with two bytes, whose MemRead is their big-endian value. -/
theorem get16ReadsBigEndian : Obligations.Get16ReadsBigEndian := by
  refine ⟨decode_encode .get16, fun s => ⟨getBytes_of_outside, fun hin => ?_⟩⟩
  rw [← memRead_two_eq]
  exact getBytes_of_inRange hin

/-- Settles O19: GET with four bytes, whose MemRead is their big-endian value. -/
theorem get32ReadsBigEndian : Obligations.Get32ReadsBigEndian := by
  refine ⟨decode_encode .get32, fun s => ⟨getBytes_of_outside, fun hin => ?_⟩⟩
  rw [← memRead_four_eq]
  exact getBytes_of_inRange hin

/-- Settles O20: PUT with two bytes. -/
theorem put16WritesBigEndian : Obligations.Put16WritesBigEndian :=
  ⟨decode_encode .put16, fun _ => ⟨putBytes_of_outside, putBytes_writes_bigEndian⟩⟩

/-- Settles O21: PUT with four bytes. -/
theorem put32WritesBigEndian : Obligations.Put32WritesBigEndian :=
  ⟨decode_encode .put32, fun _ => ⟨putBytes_of_outside, putBytes_writes_bigEndian⟩⟩

section RoundTrips
variable {s : State}

/-- A GET of n bytes from the j-th on of the N bytes that a PUT has just stored: it completes, and RESULT holds the
bits of VAL stored there. -/
theorem getBytes_after_put {N n j : Nat}
    (h : s.len.toNat ≤ s.params.bufCap.toNat ∧ s.off.toNat + N ≤ s.len.toNat)
    (hj : j + n ≤ N) {o : Word} (ho : o.toNat = s.off.toNat + j) :
    ∃ u, getBytes n { (memWrite s.off.toNat N s.val s).endCommand .ok with off := o } = .next u ∧
      u.result = (s.val.extractLsb' (8 * (N - (j + n))) (8 * n)).setWidth 32 := by
  obtain ⟨hlen, hoff⟩ := h
  have hin : s.len.toNat ≤ s.params.bufCap.toNat ∧ o.toNat + n ≤ s.len.toNat := ⟨hlen, by omega⟩
  refine ⟨_, getBytes_of_inRange (by simpa using hin), ?_⟩
  rw [← memRead_memWrite hj s.off.toNat s.val s, ← ho]
  rfl

/-- A PUT of n bytes, then a GET of as many: RESULT is the low n bytes of VAL. -/
theorem putBytes_getBytes {n : Nat} (h : s.len.toNat ≤ s.params.bufCap.toNat ∧ s.off.toNat + n ≤ s.len.toNat) :
    ∃ t u, putBytes n s = .next t ∧ getBytes n t = .next u ∧
      u.result = (s.val.extractLsb' 0 (8 * n)).setWidth 32 := by
  obtain ⟨u, hget, hresult⟩ := getBytes_after_put (j := 0) (n := n) h (by omega)
    (o := ((memWrite s.off.toNat n s.val s).endCommand .ok).off) (by simp)
  refine ⟨_, u, putBytes_of_inRange h, hget, ?_⟩
  rw [hresult, Nat.zero_add, Nat.sub_self]

/-- A PUT of four bytes, then a GET of its first two and one of its last two: RESULT is VAL's halves in turn. -/
theorem put32_get16_get16 (h : s.len.toNat ≤ s.params.bufCap.toNat ∧ s.off.toNat + 4 ≤ s.len.toNat) :
    ∃ t u v, exec .put32 s = .next t ∧ exec .get16 t = .next u ∧
      u.result = (s.val.extractLsb' 16 16).setWidth 32 ∧
      exec .get16 { t with off := s.off + 2 } = .next v ∧ v.result = (s.val.extractLsb' 0 16).setWidth 32 := by
  have hoff : (s.off + 2).toNat = s.off.toNat + 2 := by bv_omega
  obtain ⟨u, hhigh, hhighResult⟩ := getBytes_after_put (j := 0) (n := 2) h (by omega)
    (o := ((memWrite s.off.toNat 4 s.val s).endCommand .ok).off) (by simp)
  obtain ⟨v, hlow, hlowResult⟩ := getBytes_after_put (j := 2) (n := 2) h (by omega) hoff
  exact ⟨_, u, v, putBytes_of_inRange h, hhigh, hhighResult, hlow, hlowResult⟩

/-- A GET of at most four bytes, then a PUT of its RESULT: every byte of BUF is what it was. -/
theorem getBytes_putBytes {n : Nat} (hn : n ≤ 4)
    (h : s.len.toNat ≤ s.params.bufCap.toNat ∧ s.off.toNat + n ≤ s.len.toNat) :
    ∃ t u, getBytes n s = .next t ∧ putBytes n { t with val := t.result } = .next u ∧
      ∀ a, u.readByte a = s.readByte a := by
  refine ⟨_, _, getBytes_of_inRange h, putBytes_of_inRange h, fun a => ?_⟩
  rw [endCommand_readByte]
  exact readByte_memWrite_of_memRead hn (by rfl) a

end RoundTrips

/-- Settles O22: a PUT's bytes have the bits of VAL, and a GET's RESULT has those of the bytes. -/
theorem codecRoundTrips : Obligations.CodecRoundTrips := by
  refine fun s hlen => ⟨fun hoff => ?_, fun hoff => putBytes_getBytes ⟨hlen, hoff⟩⟩
  obtain ⟨t, u, hput, hget, hresult⟩ := putBytes_getBytes (n := 4) ⟨hlen, hoff⟩
  exact ⟨⟨t, u, hput, hget, by simpa using hresult⟩, put32_get16_get16 ⟨hlen, hoff⟩,
    getBytes_putBytes le_rfl ⟨hlen, hoff⟩⟩

end Sys2Proof.Machine
end

/-! SUPPORT. A command that has passed its checks, and one that a length check has stopped
(spec/60_exceptions.md R116, R121). -/

section
namespace Sys2Proof.Machine

section Endings
variable {i : Instr} {s : State} {hlen : Nat}

theorem exec_of_ok (h : expectedErr i s = .ok) : exec i s = .next ((effect i s).endCommand .ok) := by
  rw [exec_eq_effect, h, endWith_ok]

theorem exec_of_error {c : ResultCode} (h : expectedErr i s = c) (hc : c ≠ .ok) :
    exec i s = .next { s with err := c, inFlight := none } := by
  rw [exec_eq_effect, h, endWith_error hc]
  rfl

theorem lengthCode_ok_iff : lengthCode hlen s = .ok ↔ hlen ≤ s.len.toNat ∧ s.len.toNat ≤ s.params.maxLen.toNat :=
  ⟨lengthCode_ok, fun h => lengthCode_of_lengthError_none ((lengthError_none_iff hlen s).2 h)⟩

theorem exec_of_short (hi : expectedErr i s = lengthCode hlen s) (h : s.len.toNat < hlen) :
    exec i s = .next { s with err := .bufferTooSmall, inFlight := none } :=
  exec_of_error (hi.trans (if_pos h)) (by decide)

theorem exec_of_long (hi : expectedErr i s = lengthCode hlen s)
    (h : hlen ≤ s.len.toNat ∧ s.params.maxLen.toNat < s.len.toNat) :
    exec i s = .next { s with err := .packetTooLarge, inFlight := none } := by
  obtain ⟨hshort, hlong⟩ := h
  exact exec_of_error (hi.trans ((if_neg hshort.not_gt).trans (if_pos hlong))) (by decide)

end Endings

end Sys2Proof.Machine
end

/-! SUPPORT. A range of BUF as a list of bytes: its pieces, what a MemWrite makes of it, and its word sum
(spec/20_memory.md R45; spec/40_checksum.md R82). -/

section
namespace Sys2Proof.Machine

theorem setWidth_setWidth_self {w n : Nat} (h : w ≤ n) (v : BitVec w) : (v.setWidth n).setWidth w = v := by
  rw [BitVec.setWidth_setWidth_of_le v h, BitVec.setWidth_eq]

/-- The bytes a MemWrite of n bytes stores, most significant first (R45). `bytesAt_memWrite` ties it to MemWrite. -/
def storedBytes (n : Nat) (v : Word) : List Byte := (List.range n).map fun k => v.extractLsb' (8 * (n - 1 - k)) 8

theorem storedBytes_one (v : Word) : storedBytes 1 v = [v.setWidth 8] := by
  rw [BitVec.setWidth_eq_extractLsb' (by decide)]
  rfl

theorem storedBytes_two (v : Word) : storedBytes 2 v = beBytes16 (v.setWidth 16) := by
  rw [beBytes16, BitVec.extractLsb'_setWidth_of_le (by decide), BitVec.extractLsb'_setWidth_of_le (by decide)]
  rfl

theorem storedBytes_four (v : Word) : storedBytes 4 v = beBytes32 v := rfl

section Pieces
variable (s : State) (a : Nat)

theorem bytesAt_zero : bytesAt s a 0 = [] := rfl

theorem bytesAt_succ (n : Nat) : bytesAt s a (n + 1) = s.readByte a :: bytesAt s (a + 1) n := by
  simp [bytesAt, List.range_succ_eq_map, Function.comp_def, Nat.add_assoc, Nat.add_comm 1]

theorem bytesAt_add (m n : Nat) : bytesAt s a (m + n) = bytesAt s a m ++ bytesAt s (a + m) n := by
  simp [bytesAt, List.range_add, Function.comp_def, Nat.add_assoc]

@[simp] theorem bytesAt_endCommand (c : ResultCode) (n : Nat) : bytesAt (s.endCommand c) a n = bytesAt s a n := rfl

@[simp] theorem length_bytesAt (n : Nat) : (bytesAt s a n).length = n := by simp [bytesAt]

theorem bytesAt_eq_take (m n : Nat) : bytesAt s a m = (bytesAt s a (m + n)).take m := by
  rw [bytesAt_add, List.take_left' (length_bytesAt s a m)]

theorem bytesAt_eq_drop (m n : Nat) : bytesAt s (a + m) n = (bytesAt s a (m + n)).drop m := by
  rw [bytesAt_add, List.drop_left' (length_bytesAt s a m)]

end Pieces

theorem bytesAt_congr {s t : State} {a n : Nat} (h : ∀ x, a ≤ x → x < a + n → s.readByte x = t.readByte x) :
    bytesAt s a n = bytesAt t a n :=
  List.map_congr_left fun k hk => h (a + k) (by omega) (by have := List.mem_range.1 hk; omega)

theorem readByte_of_bytesAt {s : State} {n k : Nat} {bs : List Byte} {b : Byte} (h : bytesAt s 0 n = bs)
    (hb : bs[k]? = some b) : s.readByte k = b := by
  subst h
  obtain ⟨_, hread⟩ := List.getElem?_eq_some_iff.1 hb
  simpa [bytesAt] using hread

theorem readByte_eq_of_bytesAt_eq {s t : State} {n x : Nat} (h : bytesAt s 0 n = bytesAt t 0 n) (hx : x < n) :
    s.readByte x = t.readByte x := by
  simpa using List.map_inj_left.1 h x (List.mem_range.2 hx)

/-- A MemWrite inside a range replaces its piece. -/
theorem bytesAt_memWrite_inside (a m n k : Nat) (v : Word) (s : State) :
    bytesAt (memWrite (a + m) n v s) a (m + n + k) =
      bytesAt s a m ++ storedBytes n v ++ bytesAt s (a + (m + n)) k := by
  have hbefore : bytesAt (memWrite (a + m) n v s) a m = bytesAt s a m :=
    bytesAt_congr fun x _ hx => readByte_memWrite_outside (.inl hx)
  have hbehind : bytesAt (memWrite (a + m) n v s) (a + (m + n)) k = bytesAt s (a + (m + n)) k :=
    bytesAt_congr fun x hx _ => readByte_memWrite_outside (.inr (by omega))
  rw [bytesAt_add, bytesAt_add, hbefore, hbehind, bytesAt_memWrite, storedBytes]

/-- A MemWrite right behind the bytes from address 0 adds its own. -/
theorem bytesAt_memWrite_behind (m n : Nat) (v : Word) (s : State) :
    bytesAt (memWrite m n v s) 0 (m + n) = bytesAt s 0 m ++ storedBytes n v := by
  simpa [bytesAt] using bytesAt_memWrite_inside 0 m n 0 v s

/-- The sum of a list of bytes as big-endian 16-bit words, an odd last byte high (R82). `wordSum_eq_bytesWordSum`
ties it to `wordSum`. -/
def bytesWordSum : List Byte → Nat
  | [] => 0
  | [b] => b.toNat * 256
  | b :: c :: rest => b.toNat * 256 + c.toNat + bytesWordSum rest

theorem wordSum_eq_bytesWordSum (s : State) (a n : Nat) : wordSum s.readByte a n = bytesWordSum (bytesAt s a n) := by
  induction n using Nat.twoStepInduction generalizing a with
  | zero => rfl
  | one =>
    rw [wordSum_one]
    rfl
  | more n ih _ => rw [wordSum_step, memRead_two_toNat, ih, bytesAt_succ, bytesAt_succ, bytesWordSum]

/-- Two neighbouring bytes of a value are one big-endian word of it. -/
theorem extractLsb'_bytes {w : Nat} (v : BitVec w) (k : Nat) :
    (v.extractLsb' (k + 8) 8).toNat * 256 + (v.extractLsb' k 8).toNat = v.toNat / 2 ^ k % 0x10000 := by
  simp only [BitVec.extractLsb'_toNat, Nat.shiftRight_eq_div_pow, pow_add, ← Nat.div_div_eq_div_mul]
  omega

theorem beBytes16_word (v : Half) : (v.extractLsb' 8 8).toNat * 256 + (v.extractLsb' 0 8).toNat = v.toNat := by
  rw [extractLsb'_bytes v 0, pow_zero, Nat.div_one, Nat.mod_eq_of_lt v.isLt]

/-- Two neighbouring bytes of a known range as the 16-bit value they hold. -/
theorem halfAt_of_bytesAt {s : State} {n k : Nat} {bs : List Byte} (v : Half) (h : bytesAt s 0 n = bs)
    (hhigh : bs[k]? = some (v.extractLsb' 8 8)) (hlow : bs[k + 1]? = some (v.extractLsb' 0 8)) :
    (s.readByte k).toNat * 2 ^ 8 + (s.readByte (k + 1)).toNat = v.toNat := by
  rw [readByte_of_bytesAt h hhigh, readByte_of_bytesAt h hlow]
  exact beBytes16_word v

theorem bytesWordSum_beBytes16_append (v : Half) (bs : List Byte) :
    bytesWordSum (beBytes16 v ++ bs) = v.toNat + bytesWordSum bs :=
  congrArg (· + bytesWordSum bs) (beBytes16_word v)

theorem bytesWordSum_beBytes32_append (v : Word) (bs : List Byte) :
    bytesWordSum (beBytes32 v ++ bs) = v.toNat / 0x10000 + v.toNat % 0x10000 + bytesWordSum bs := by
  have hhigh : (v.extractLsb' 24 8).toNat * 256 + (v.extractLsb' 16 8).toNat = v.toNat / 0x10000 :=
    (extractLsb'_bytes v 16).trans (Nat.mod_eq_of_lt (by omega))
  have hlow : (v.extractLsb' 8 8).toNat * 256 + (v.extractLsb' 0 8).toNat = v.toNat % 0x10000 := by
    rw [extractLsb'_bytes v 0, pow_zero, Nat.div_one]
  rw [← hhigh, ← hlow, Nat.add_assoc]
  rfl

end Sys2Proof.Machine
end

/-! PROOFS. The IPv4 header and the pseudo-header in BUF (spec/42_ip4.md R92-R97, R101, R105). -/

section
namespace Sys2Proof.Machine

/-- The word sum of a header: its checksum field adds itself to the other nine words (R92, R94). -/
theorem bytesWordSum_ip4Layout (len ipid : Half) (proto : Byte) (check : Half) (src dst : Word) :
    bytesWordSum (ip4Layout len ipid proto check src dst) = ip4HeaderSum len ipid proto src dst + check.toNat := by
  have hdst := bytesWordSum_beBytes32_append dst []
  rw [List.append_nil] at hdst
  simp only [ip4Layout, List.append_assoc, List.cons_append, List.nil_append, bytesWordSum,
    bytesWordSum_beBytes16_append, bytesWordSum_beBytes32_append, hdst]
  simp only [ip4HeaderSum]
  bv_omega

theorem bytesAt_ip4Fields (p : Byte) (s : State) :
    bytesAt (ip4Fields p s) 0 20 = ip4Layout (s.len.setWidth 16) s.ipid p 0 s.srcip s.dstip := by
  simp only [ip4Fields]
  repeat rw [bytesAt_memWrite_behind]
  simp only [storedBytes_one, storedBytes_two, storedBytes_four, bytesAt_zero,
    setWidth_setWidth_self (w := 8) (n := 32) (by decide), setWidth_setWidth_self (w := 16) (n := 32) (by decide)]
  rfl

theorem bytesAt_ip4Pseudo (s : State) :
    bytesAt (ip4Pseudo s) 0 20 = pseudoLayout s.proto ((s.len - 20).setWidth 16) s.srcip s.dstip := by
  simp only [ip4Pseudo]
  repeat rw [bytesAt_memWrite_behind]
  simp only [storedBytes_one, storedBytes_two, storedBytes_four, bytesAt_zero,
    setWidth_setWidth_self (w := 8) (n := 32) (by decide)]
  rfl

theorem wordSum_ip4Fields (p : Byte) (s : State) :
    wordSum (ip4Fields p s).readByte 0 20 = ip4HeaderSum (s.len.setWidth 16) s.ipid p s.srcip s.dstip := by
  rw [wordSum_eq_bytesWordSum, bytesAt_ip4Fields, bytesWordSum_ip4Layout]
  rfl

theorem ip4Fill_acc (p : Byte) (s : State) :
    (ip4Fill p s).acc =
      BitVec.ofNat 32 (foldedSum (ip4HeaderSum (s.len.setWidth 16) s.ipid p s.srcip s.dstip)) := by
  rw [ip4Fill, embedChecksum_eq, fold_inetSum_eq (by decide), wordSum_ip4Fields]

theorem bytesAt_embedChecksum (n m k : Nat) (s : State) :
    bytesAt (embedChecksum n m s) 0 (m + 2 + k) =
      bytesAt s 0 m ++ beBytes16 (checksum s.readByte 0 n) ++ bytesAt s (m + 2) k := by
  have h := bytesAt_memWrite_inside 0 m 2 k ((checksum s.readByte 0 n).setWidth 32)
    (s.setAcc (fold (inetSum s.readByte 0 n)))
  rw [storedBytes_two, setWidth_setWidth_self (by decide), Nat.zero_add, Nat.zero_add] at h
  exact h

theorem checksum_eq {n : Nat} (hn : n ≤ 131074) (byte : Nat → Byte) (a : Nat) :
    checksum byte a n = BitVec.ofNat 16 (0xFFFF - foldedSum (wordSum byte a n)) := by
  rw [← checksum_toNat hn, BitVec.ofNat_toNat, BitVec.setWidth_eq]

/-- IP4Fill leaves the header of the registers: its checksum field, 0 while the sum is taken, is the only word that
changes afterwards (R93, R94). -/
theorem bytesAt_ip4Fill (p : Byte) (s : State) : bytesAt (ip4Fill p s) 0 20 = ip4HeaderOf s p := by
  have hsum := bytesAt_embedChecksum 20 10 8 (ip4Fields p s)
  have hfront := bytesAt_eq_take (ip4Fields p s) 0 10 10
  have hback := bytesAt_eq_drop (ip4Fields p s) 0 12 8
  rw [bytesAt_ip4Fields] at hfront
  rw [bytesAt_ip4Fields, Nat.zero_add] at hback
  rw [hfront, hback, checksum_eq (by decide), wordSum_ip4Fields] at hsum
  exact hsum

/-- The word sum of a finished header (R92). -/
theorem bytesWordSum_ip4HeaderOf (s : State) (p : Byte) :
    bytesWordSum (ip4HeaderOf s p) = ip4HeaderSum (s.len.setWidth 16) s.ipid p s.srcip s.dstip +
      ip4HeaderChecksum (s.len.setWidth 16) s.ipid p s.srcip s.dstip := by
  rw [ip4HeaderOf, bytesWordSum_ip4Layout, BitVec.toNat_ofNat, Nat.mod_eq_of_lt]
  exact (Nat.sub_le _ _).trans_lt (by decide)

theorem sub_setWidth_eq {v : Word} (h : 20 ≤ v.toNat) :
    (v - 20).setWidth 16 = BitVec.ofNat 16 (v.toNat - 20) := by
  have hsub : (v - 20).toNat = v.toNat - 20 := by bv_omega
  rw [← hsub, BitVec.ofNat_toNat]

section Marshal
variable {s : State} (h : 20 ≤ s.len.toNat ∧ s.len.toNat ≤ s.params.maxLen.toNat)
include h

theorem exec_ip4Marshal_of_fits : exec .ip4Marshal s = .next ((ip4Fill s.proto s).endCommand .ok) :=
  exec_of_ok (lengthCode_ok_iff.2 h)

theorem exec_ip4MarshalPseudo_of_fits : exec .ip4MarshalPseudo s = .next ((ip4Pseudo s).endCommand .ok) :=
  exec_of_ok (lengthCode_ok_iff.2 h)

/-- What IP4_MARSHAL does within its length checks (R93). -/
theorem ip4Marshal_of_fits :
    ∃ t, exec .ip4Marshal s = .next t ∧
      t = { s with
        buf := t.buf
        acc := BitVec.ofNat 32
          (foldedSum (ip4HeaderSum (s.len.setWidth 16) s.ipid s.proto s.srcip s.dstip))
        err := .ok
        inFlight := none } ∧
      bytesAt t 0 20 = ip4HeaderOf s s.proto ∧
      ∀ a, 20 ≤ a → t.readByte a = s.readByte a := by
  refine ⟨_, exec_ip4Marshal_of_fits h, ?_, ?_, fun a ha => ?_⟩
  · simp only [endCommand_buf, ← ip4Fill_acc]
    exact endCommand_of_bufAcc (ip4Fill_eq s.proto s) .ok
  · rw [bytesAt_endCommand, bytesAt_ip4Fill]
  · simp only [endCommand_readByte, ip4Fill_outside ha]

/-- What IP4_MARSHAL_PSEUDO does within its length checks (R97). -/
theorem ip4MarshalPseudo_of_fits :
    ∃ t, exec .ip4MarshalPseudo s = .next t ∧ t = { s with buf := t.buf, err := .ok, inFlight := none } ∧
      bytesAt t 0 20 = pseudoLayout s.proto (BitVec.ofNat 16 (s.len.toNat - 20)) s.srcip s.dstip ∧
      ∀ a, 20 ≤ a → t.readByte a = s.readByte a := by
  refine ⟨_, exec_ip4MarshalPseudo_of_fits h, ?_, ?_, fun a ha => ?_⟩
  · simp only [endCommand_buf]
    exact endCommand_of_buf (ip4Pseudo_eq s) .ok
  · obtain ⟨hmin, -⟩ := h
    rw [bytesAt_endCommand, bytesAt_ip4Pseudo, sub_setWidth_eq hmin]
  · simp only [endCommand_readByte, ip4Pseudo_outside ha]

end Marshal

/-- Settles O24: the length checks of R116 decide between the three cases. -/
theorem ip4MarshalWritesTheHeader : Obligations.Ip4MarshalWritesTheHeader :=
  ⟨decode_encode .ip4Marshal, fun _ => ⟨exec_of_short rfl, exec_of_long rfl, ip4Marshal_of_fits⟩⟩

/-- Settles O28: the length checks of R116 decide between the three cases. -/
theorem pseudoHeaderIsWritten : Obligations.PseudoHeaderIsWritten :=
  ⟨decode_encode .ip4MarshalPseudo, fun _ => ⟨exec_of_short rfl, exec_of_long rfl, ip4MarshalPseudo_of_fits⟩⟩

/-- Settles O25: a header sums to a multiple of 0xFFFF, and not to 0, since its first word is 0x4500. -/
theorem ip4HeaderSelfValidates : Obligations.Ip4HeaderSelfValidates := by
  intro s hmin hmax
  obtain ⟨t, hexec, ht, hbytes, -⟩ := ip4Marshal_of_fits ⟨hmin, hmax⟩
  refine ⟨t, hexec, by rw [ht], ?_⟩
  rw [checksum_eq_zero_iff (by decide), wordSum_eq_bytesWordSum, hbytes, bytesWordSum_ip4HeaderOf]
  exact ⟨by unfold ip4HeaderSum; omega, add_complement_mod _⟩

/-- Settles O26: header and ACC are functions of the five registers, which IP4_MARSHAL itself keeps. -/
theorem ip4MarshalIsDeterministic : Obligations.Ip4MarshalIsDeterministic := by
  refine ⟨fun s s' hlen hproto hipid hsrc hdst hmin hmax hmax' => ?_, fun s hmin hmax => ?_⟩
  · obtain ⟨t, hexec, ht, hbytes, -⟩ := ip4Marshal_of_fits ⟨hmin, hmax⟩
    obtain ⟨t', hexec', ht', hbytes', -⟩ := ip4Marshal_of_fits (s := s') (by rw [hlen]; exact ⟨hmin, hmax'⟩)
    refine ⟨t, t', hexec, hexec', ?_, ?_⟩
    · rw [hbytes, hbytes']
      simp only [ip4HeaderOf, hlen, hproto, hipid, hsrc, hdst]
    · rw [ht, ht', hlen, hproto, hipid, hsrc, hdst]
  · obtain ⟨t, hexec, ht, hbytes, -⟩ := ip4Marshal_of_fits ⟨hmin, hmax⟩
    obtain ⟨u, hexec', hu, hbytes', hframe⟩ := ip4Marshal_of_fits (s := t) (by rw [ht]; exact ⟨hmin, hmax⟩)
    have hheader : ip4HeaderOf t t.proto = ip4HeaderOf s s.proto := by
      rw [ht]
      rfl
    refine ⟨t, u, hexec, hexec', ?_, fun a => ?_⟩
    · rw [hu, ht]
    · by_cases ha : a < 20
      · exact readByte_eq_of_bytesAt_eq (hbytes'.trans (hheader.trans hbytes.symm)) ha
      · exact hframe a (not_lt.1 ha)

/-- Settles O27: R7 keeps LEN below 2^16. -/
theorem lengthFieldsAreExact : Obligations.LengthFieldsAreExact := by
  rintro s ⟨-, hmaxLen, -, -⟩ hmin hmax
  obtain ⟨t, hexec, -, hbytes, -⟩ := ip4Marshal_of_fits ⟨hmin, hmax⟩
  obtain ⟨u, hexec', -, hbytes', -⟩ := ip4MarshalPseudo_of_fits ⟨hmin, hmax⟩
  refine ⟨⟨t, hexec, ?_⟩, u, hexec', ?_⟩
  · rw [halfAt_of_bytesAt (s.len.setWidth 16) hbytes rfl rfl, BitVec.toNat_setWidth]
    exact Nat.mod_eq_of_lt (by omega)
  · rw [halfAt_of_bytesAt (BitVec.ofNat 16 (s.len.toNat - 20)) hbytes' rfl rfl, BitVec.toNat_ofNat]
    exact Nat.mod_eq_of_lt (by omega)

end Sys2Proof.Machine
end

/-! PROOFS. The commands without a check: IP4_LEN, ICMP4_LEN and IP4_TO_RESPONSE (spec/42_ip4.md R91, R99, R100;
spec/43_icmp4.md R106). -/

section
namespace Sys2Proof.Machine

/-- Settles O23: the two commands have no check, and set RESULT to a constant. -/
theorem lenCommandsReturnHeaderLengths : Obligations.LenCommandsReturnHeaderLengths :=
  ⟨decode_encode .ip4Len, decode_encode .icmp4Len, fun _ => ⟨exec_of_ok rfl, exec_of_ok rfl⟩⟩

theorem not_eq_ofNat_sub (v : Half) : ~~~v = BitVec.ofNat 16 (0xFFFF - v.toNat) := by bv_omega

/-- Settles O29: the one's complement of IPID is its distance from 0xFFFF. -/
theorem ip4ToResponseSwapsAndComplements : Obligations.Ip4ToResponseSwapsAndComplements := by
  refine ⟨decode_encode .ip4ToResponse, fun s => ?_⟩
  rw [← not_eq_ofNat_sub]
  exact exec_of_ok rfl

theorem swapToResponse_swapToResponse (s : State) : swapToResponse (swapToResponse s) = s := by
  apply State.ext <;> simp [swapToResponse]

/-- Settles O30: a swap and a complement are their own inverses. -/
theorem ip4ToResponseIsInvolutive : Obligations.Ip4ToResponseIsInvolutive := by
  refine fun s => ⟨_, _, exec_of_ok rfl, exec_of_ok rfl, ?_⟩
  change (swapToResponse (swapToResponse s)).endCommand .ok = _
  rw [swapToResponse_swapToResponse]
  rfl

end Sys2Proof.Machine
end

/-! PROOFS. ICMP4_MARSHAL and ICMP4_TO_RESPONSE: both headers in BUF, both checksums, and the reply's header registers
(spec/43_icmp4.md R107-R115). -/

section
namespace Sys2Proof.Machine

/-- IP4Fill over the type and code bytes sees the registers as they were, and nothing writes over its header (R108). -/
theorem bytesAt_icmp4Fields_ip4 (s : State) : bytesAt (icmp4Fields s) 0 20 = ip4HeaderOf s 1 := by
  have hkept : bytesAt (icmp4Fields s) 0 20 =
      bytesAt (ip4Fill 1 (memWrite 21 1 (s.icmpCode.setWidth 32) (memWrite 20 1 (s.icmpType.setWidth 32) s))) 0 20 :=
    bytesAt_congr fun x _ hx => readByte_memWrite_outside (.inl (by omega))
  rw [hkept, bytesAt_ip4Fill]
  simp [ip4HeaderOf]

/-- The ICMP header before the whole-buffer sum: type, code and the checksum field 0 (R107, R109). -/
theorem bytesAt_icmp4Fields_icmp4 (s : State) :
    bytesAt (icmp4Fields s) 20 4 = [s.icmpType, s.icmpCode, 0, 0] := by
  simp [icmp4Fields, bytesAt_succ, bytesAt_zero, readByte_memWrite, ip4Fill_outside,
    ← BitVec.setWidth_eq_extractLsb']

/-- The sum ICMP4_MARSHAL takes, piece by piece: the finished IPv4 header, the ICMP header and the payload (R108). -/
theorem wordSum_icmp4Fields {s : State} (hmin : 24 ≤ s.len.toNat) :
    wordSum (icmp4Fields s).readByte 0 s.len.toNat = icmp4BufferSum s := by
  have hpieces : s.len.toNat = 2 * 10 + (2 * 2 + (s.len.toNat - 24)) := by omega
  have hpayload : wordSum (icmp4Fields s).readByte 24 (s.len.toNat - 24) = wordSum s.readByte 24 (s.len.toNat - 24) :=
    wordSum_congr fun x hx _ => icmp4Fields_outside hx
  rw [hpieces, wordSum_add, wordSum_add, wordSum_eq_bytesWordSum, wordSum_eq_bytesWordSum, hpayload,
    bytesAt_icmp4Fields_ip4, bytesAt_icmp4Fields_icmp4, bytesWordSum_ip4HeaderOf]
  simp [icmp4BufferSum, bytesWordSum, Nat.add_assoc]

theorem icmp4BufferSum_pos (s : State) : 0 < icmp4BufferSum s := by
  unfold icmp4BufferSum ip4HeaderSum
  omega

/-- The finished IPv4 header adds a multiple of 0xFFFF, and not 0, to the ICMP part's sum (R110). -/
theorem foldedSum_icmp4BufferSum {s : State} {p : Nat}
    (hp : p = s.icmpType.toNat * 256 + s.icmpCode.toNat + wordSum s.readByte 24 (s.len.toNat - 24)) :
    foldedSum (icmp4BufferSum s) = if p = 0 then 0xFFFF else foldedSum p := by
  have hpos := icmp4BufferSum_pos s
  have hheader := add_complement_mod (ip4HeaderSum (s.len.setWidth 16) s.ipid 1 s.srcip s.dstip)
  have hsum : icmp4BufferSum s = ip4HeaderSum (s.len.setWidth 16) s.ipid 1 s.srcip s.dstip +
      ip4HeaderChecksum (s.len.setWidth 16) s.ipid 1 s.srcip s.dstip + p := by
    rw [icmp4BufferSum, hp]
    ring
  rw [← ip4HeaderChecksum] at hheader
  split
  next hzero => exact foldedSum_eq_ones_iff.2 ⟨hpos, by omega⟩
  next hne => exact foldedSum_congr (by omega) (by omega)

/-- A finished IPv4 header sums to a multiple of 0xFFFF, and not to 0, since its first word is 0x4500 (R101). -/
theorem checksum_of_ip4HeaderOf {s t : State} {p : Byte} (h : bytesAt t 0 20 = ip4HeaderOf s p) :
    checksum t.readByte 0 20 = 0 := by
  rw [checksum_eq_zero_iff (by decide), wordSum_eq_bytesWordSum, h, bytesWordSum_ip4HeaderOf]
  exact ⟨by unfold ip4HeaderSum; omega, add_complement_mod _⟩

/-- The field of an embedded checksum holds it, most significant byte first (R45). -/
theorem bytesAt_embedChecksum_field (n field : Nat) (s : State) :
    bytesAt (embedChecksum n field s) field 2 = beBytes16 (checksum s.readByte 0 n) := by
  simp only [embedChecksum]
  rw [bytesAt_memWrite, ← storedBytes, storedBytes_two, setWidth_setWidth_self (by decide), checksum]

/-- A checksum embedded in an aligned field that is 0, over a range that does not sum to 0, validates (R80). -/
theorem checksum_embedChecksum {s : State} {n j : Nat} (hn : n ≤ 131074) (hj : 2 * j + 1 < n)
    (hhigh : s.readByte (2 * j) = 0) (hlow : s.readByte (2 * j + 1) = 0) (hpos : 0 < wordSum s.readByte 0 n) :
    checksum (embedChecksum n (2 * j) s).readByte 0 n = 0 := by
  have hfold : fold (inetSum s.readByte 0 n) ≠ 0 := by
    rw [Ne, ← BitVec.toNat_inj, fold_inetSum_toNat (wordSum_lt hn _ _)]
    exact mt foldedSum_eq_zero_iff.1 hpos.ne'
  rw [← Nat.zero_add (2 * j)] at hhigh hlow ⊢
  exact checksum_embedded (s := s.setAcc (fold (inetSum s.readByte 0 n))) hn hj hhigh hlow hfold

section Effect
variable (s : State)

/-- The checksum embedded last leaves the IPv4 header alone. -/
theorem bytesAt_effect_icmp4Marshal_ip4 : bytesAt (effect .icmp4Marshal s) 0 20 = ip4HeaderOf s 1 := by
  rw [← bytesAt_icmp4Fields_ip4]
  exact bytesAt_congr fun x _ hx => embedChecksum_outside (.inl (by omega))

theorem readByte_effect_icmp4Marshal {x : Nat} (hx : 24 ≤ x) :
    (effect .icmp4Marshal s).readByte x = s.readByte x :=
  (embedChecksum_outside (.inr hx)).trans (icmp4Fields_outside hx)

theorem effect_icmp4Marshal_eq :
    effect .icmp4Marshal s = { s with buf := (effect .icmp4Marshal s).buf, acc := (effect .icmp4Marshal s).acc } :=
  icmp4Embed_eq s.len.toNat s

variable {s} (hmin : 24 ≤ s.len.toNat) (hmax : s.len.toNat ≤ 131074)
include hmin hmax

theorem effect_icmp4Marshal_acc :
    (effect .icmp4Marshal s).acc = BitVec.ofNat 32 (foldedSum (icmp4BufferSum s)) := by
  rw [effect, embedChecksum_eq, fold_inetSum_eq hmax, wordSum_icmp4Fields hmin]

/-- The ICMP header as ICMP4_MARSHAL leaves it: type and code as before the sum, then its complement (R107, R108). -/
theorem bytesAt_effect_icmp4Marshal_icmp4 :
    bytesAt (effect .icmp4Marshal s) 20 4 = [s.icmpType, s.icmpCode] ++
      beBytes16 (BitVec.ofNat 16 (0xFFFF - foldedSum (icmp4BufferSum s))) := by
  have hfront : bytesAt (effect .icmp4Marshal s) 20 2 = (bytesAt (icmp4Fields s) 20 4).take 2 := by
    rw [← bytesAt_eq_take _ 20 2 2]
    exact bytesAt_congr fun x _ hx => embedChecksum_outside (.inl hx)
  rw [bytesAt_add _ 20 2 2, hfront, bytesAt_icmp4Fields_icmp4, effect, bytesAt_embedChecksum_field, checksum_eq hmax,
    wordSum_icmp4Fields hmin]
  rfl

/-- The ICMP checksum field is aligned and 0 while the sum is taken, and the sum is not 0 (R80, R114). -/
theorem checksum_effect_icmp4Marshal : checksum (effect .icmp4Marshal s).readByte 0 s.len.toNat = 0 := by
  have hzero := bytesAt_icmp4Fields_icmp4 s
  simp only [bytesAt_succ, List.cons.injEq] at hzero
  obtain ⟨-, -, hhigh, hlow, -⟩ := hzero
  rw [effect]
  refine checksum_embedChecksum (j := 11) hmax (by omega) hhigh hlow ?_
  rw [wordSum_icmp4Fields hmin]
  exact icmp4BufferSum_pos s

end Effect

section Marshal
variable {s : State}

theorem exec_icmp4Marshal_of_fits (h : 24 ≤ s.len.toNat ∧ s.len.toNat ≤ s.params.maxLen.toNat) :
    exec .icmp4Marshal s = .next ((effect .icmp4Marshal s).endCommand .ok) :=
  exec_of_ok (lengthCode_ok_iff.2 h)

/-- The constraints of R7 keep a LEN that fits MAX_LEN within the range where no sum wraps (R82). -/
theorem len_le_of_wf (hwf : s.params.wf) (hmax : s.len.toNat ≤ s.params.maxLen.toNat) : s.len.toNat ≤ 131074 := by
  obtain ⟨-, hmaxLen, -, -⟩ := hwf
  omega

/-- What ICMP4_MARSHAL does within its length checks (R108). -/
theorem icmp4Marshal_of_fits (hwf : s.params.wf) (h : 24 ≤ s.len.toNat ∧ s.len.toNat ≤ s.params.maxLen.toNat) :
    ∃ t, exec .icmp4Marshal s = .next t ∧
      t = { s with
        buf := t.buf
        acc := BitVec.ofNat 32 (foldedSum (icmp4BufferSum s))
        err := .ok
        inFlight := none } ∧
      bytesAt t 0 20 = ip4HeaderOf s 1 ∧
      bytesAt t 20 4 = [s.icmpType, s.icmpCode] ++
        beBytes16 (BitVec.ofNat 16 (0xFFFF - foldedSum (icmp4BufferSum s))) ∧
      ∀ a, 24 ≤ a → t.readByte a = s.readByte a := by
  obtain ⟨hmin, hmax⟩ := h
  have hlen := len_le_of_wf hwf hmax
  refine ⟨_, exec_icmp4Marshal_of_fits ⟨hmin, hmax⟩, ?_, ?_, ?_, fun a ha => ?_⟩
  · rw [endCommand_buf, ← effect_icmp4Marshal_acc hmin hlen]
    exact endCommand_of_bufAcc (effect_icmp4Marshal_eq s) .ok
  · rw [bytesAt_endCommand, bytesAt_effect_icmp4Marshal_ip4]
  · rw [bytesAt_endCommand, bytesAt_effect_icmp4Marshal_icmp4 hmin hlen]
  · rw [endCommand_readByte, readByte_effect_icmp4Marshal s ha]

end Marshal

/-- Settles O31: the length checks of R116 decide between the three cases, and R7 puts MAX_LEN at 24 or above. -/
theorem icmp4MarshalWritesBothHeaders : Obligations.Icmp4MarshalWritesBothHeaders := by
  refine ⟨decode_encode .icmp4Marshal, fun s hwf => ⟨exec_of_short rfl, fun hlong => ?_, icmp4Marshal_of_fits hwf⟩⟩
  obtain ⟨hmaxLen, -⟩ := hwf
  exact exec_of_long (hlen := 24) rfl ⟨by omega, hlong⟩

/-- Settles O32: each header is summed with its checksum field 0, and neither sum is 0. -/
theorem icmp4HeaderSelfValidates : Obligations.Icmp4HeaderSelfValidates := by
  intro s hwf hmin hmax
  refine ⟨_, exec_icmp4Marshal_of_fits ⟨hmin, hmax⟩, endCommand_err _ _, ?_, ?_⟩
  · rw [endCommand_readByte, checksum_of_ip4HeaderOf (bytesAt_effect_icmp4Marshal_ip4 s)]
  · rw [endCommand_readByte, checksum_effect_icmp4Marshal hmin (len_le_of_wf hwf hmax)]

/-- Settles O33: the IPv4 header's sum is a multiple of 0xFFFF, so it shows in the fold only where the rest is 0. -/
theorem wholeBufferSumMatchesIcmpPart : Obligations.WholeBufferSumMatchesIcmpPart := by
  intro s p hwf hmin hmax hp
  obtain ⟨t, hexec, ht, hip, hicmp, -⟩ := icmp4Marshal_of_fits hwf ⟨hmin, hmax⟩
  have hle := foldedSum_le (icmp4BufferSum s)
  have hbytes := bytesAt_add t 0 20 4
  rw [hip, Nat.zero_add, hicmp] at hbytes
  have hfield := halfAt_of_bytesAt (k := 22) (BitVec.ofNat 16 (0xFFFF - foldedSum (icmp4BufferSum s))) hbytes rfl rfl
  have hacc : t.acc = BitVec.ofNat 32 (foldedSum (icmp4BufferSum s)) := by rw [ht]
  refine ⟨t, hexec, ?_, hfield.trans ?_⟩
  · rw [hacc, BitVec.toNat_ofNat, Nat.mod_eq_of_lt (by omega), foldedSum_icmp4BufferSum hp]
  · rw [BitVec.toNat_ofNat, Nat.mod_eq_of_lt (by omega), foldedSum_icmp4BufferSum hp]
    split <;> rfl

/-- Settles O34: the header in BUF is that of protocol 1, and PROTO, which ICMP4_MARSHAL keeps, is what IP4_MARSHAL
takes. -/
theorem icmpForcesByteNineNotProto : Obligations.IcmpForcesByteNineNotProto := by
  intro s hmin hmax
  have heffect := effect_icmp4Marshal_eq s
  have hproto : ((effect .icmp4Marshal s).endCommand .ok).proto = s.proto := by rw [heffect]; rfl
  have hlen : (effect .icmp4Marshal s).len = s.len := by rw [heffect]
  obtain ⟨u, hexec, -, hbytes, -⟩ := ip4Marshal_of_fits (s := (effect .icmp4Marshal s).endCommand .ok)
    (by rw [endCommand_len, endCommand_params, effect_params, hlen]; omega)
  refine ⟨_, u, exec_icmp4Marshal_of_fits ⟨hmin, hmax⟩, ?_, hproto, hexec, ?_⟩
  · rw [endCommand_readByte]
    exact readByte_of_bytesAt (bytesAt_effect_icmp4Marshal_ip4 s) rfl
  · rw [readByte_of_bytesAt hbytes rfl, hproto]

/-- Settles O35: no check, the two ICMP registers, and then what IP4_TO_RESPONSE does. -/
theorem icmp4ToResponseWritesTheReply : Obligations.Icmp4ToResponseWritesTheReply := by
  refine ⟨decode_encode .icmp4ToResponse, fun s => ?_⟩
  rw [← not_eq_ofNat_sub]
  exact exec_of_ok rfl

end Sys2Proof.Machine
end

/-! PROOFS. Result codes and how a command word ends: with the code of its cause, and in STATUS alone when that code is
an error (spec/60_exceptions.md R117, R118, R121, R122). -/

section
namespace Sys2Proof.Machine

theorem endWith_err (c : ResultCode) (s u : State) : (endWith c s u).err = c := endCommand_err _ c

/-- Settles O36: `exec_eq_effect` with the code read off its end state. -/
theorem errIsTheCodeOfItsCause : Obligations.ErrIsTheCodeOfItsCause :=
  fun i s => ⟨_, exec_eq_effect i s, endWith_err _ _ _⟩

/-- A command that ends with an error was stopped by its checks, before any of its writes. -/
theorem eq_of_exec_error {i : Instr} {s t : State} (h : exec i s = .next t) (herr : t.err ≠ .ok) :
    t = { s with err := t.err, inFlight := none } := by
  obtain ⟨-, rfl⟩ | ⟨-, rfl⟩ := exec_next_cases h
  · exact absurd (endCommand_err _ _) herr
  · rfl

/-- Settles O37: a word runs as the command it decodes to, or ends with ILLEGAL_CMD. -/
theorem errorWritesNothingButStatus : Obligations.ErrorWritesNothingButStatus := by
  refine ⟨fun i s t => eq_of_exec_error, fun w s t hrun herr => ?_⟩
  cases hdec : decode w with
  | ok i =>
    rw [runWord, hdec] at hrun
    exact eq_of_exec_error hrun herr
  | error r =>
    cases (runWord_of_decode_error hdec s).symm.trans hrun
    rfl

/-- Settles O10: `exec_eq_effect` gives the end state, and by `exec_next_frame` it keeps every field named. -/
theorem everyCommandEnds : Obligations.EveryCommandEnds := by
  intro i s
  have hexec := exec_eq_effect i s
  have hframe := exec_next_frame hexec
  refine ⟨_, hexec, ?_⟩
  rw [hframe]
  exact ⟨rfl, rfl, rfl, rfl, rfl, rfl, rfl⟩

theorem blockTurn_of_decode_error {s : State} {w : Word} {r : Reject} (hfly : s.inFlight = some w)
    (hdec : decode w = .error r) : blockTurn s = .next { s with err := .illegalCmd, inFlight := none } := by
  rw [← runWord_of_decode_error hdec, blockTurn, hfly]

/-- Settles O7: the words named are those outside the decoder's domain. -/
theorem illegalWordChangesOnlyErr : Obligations.IllegalWordChangesOnlyErr := by
  intro s w hsafe hmove hfly hillegal
  obtain ⟨r, hdec⟩ : ∃ r, decode w = .error r := by
    rw [exists_decode_error_iff, exists_decode_ok_iff, not_and_or]
    exact hillegal
  rw [step_of_blockMovesNext hsafe hmove]
  exact blockTurn_of_decode_error (s := { s with inputs := s.inputs.tail }) hfly hdec

theorem blockTurn_of_idle {s : State} (hidle : s.inFlight = none) : blockTurn s = .next s := by
  rw [blockTurn, hidle]

/-- Settles O11: the block's turn with no command in flight. -/
theorem idleBlockKeepsEverything : Obligations.IdleBlockKeepsEverything := by
  rintro s ⟨hsafe, hidle⟩ hmove
  rw [step_of_blockMovesNext hsafe hmove]
  exact blockTurn_of_idle (s := { s with inputs := s.inputs.tail }) hidle

end Sys2Proof.Machine
end

/-! PROOFS. The CMD write and the block's turn as one transition, and the accesses a busy block meets
(spec/20_memory.md R55; spec/70_reset_and_hazards.md R131, R136, R138). -/

section
namespace Sys2Proof.Machine

/-- No command looks at the word in flight, and every command ends with none (R122). -/
theorem exec_inFlight (i : Instr) (s : State) (f : Option Word) : exec i { s with inFlight := f } = exec i s := by
  cases i <;> rfl

/-- Settles O9: the CMD write puts the word in flight, and the block's turn runs the command it encodes. -/
theorem commandIsOneTransition : Obligations.CommandIsOneTransition := by
  intro s i rest hready hin
  have ⟨hsafe, _⟩ := hready
  obtain ⟨t, hexec, hdone, -⟩ := everyCommandEnds i { s with inputs := rest }
  have hturn := stepRunsDecodedCommand { s with inputs := .block :: rest, inFlight := some (encode i) } (encode i) i
    hsafe (.inr rfl) rfl (decode_encode i)
  have hsame := exec_inFlight i { s with inputs := rest } (some (encode i))
  exact ⟨_, t, step_regWrite (r := .cmd) hready hin, rfl, hturn.trans (hsame.trans hexec), hdone, hexec⟩

/-- Only the read of a register's offset is that register's `rd`. -/
theorem form_of_resolve_rd {a : Access} {cap : Nat} {r : Reg} (h : a.resolve cap = .ok (.rd r)) :
    a.dir = .read ∧ a.space = .reg ∧ a.width = .w32 ∧ a.addr = r.offset := by
  unfold Access.resolve at h
  split at h
  next hspace =>
    unfold resolveReg at h
    split at h
    next hwidth hoff hdir =>
      cases h
      exact ⟨hdir, hspace, hwidth, atOffset_eq_some_iff.1 hoff⟩
    next => cases h
    next => cases h
  next =>
    unfold resolveBuf at h
    split_ifs at h
    split at h <;> cases h

/-- A STATUS read is answered whether a command is in flight or not (R138). -/
theorem hostAccess_statusRead (d : Word) (s : State) :
    hostAccess ⟨.read, .reg, .w32, Reg.status.offset, d⟩ s = { s with readData := some (statusWord s) } := by
  simp [hostAccess, resolve_regRead, mayAccess, performOp, regRead]

/-- Settles O46: an access resolves to the STATUS read, to another line, which BUSY forbids, or to nothing. -/
theorem onlyStatusMayBeReadWhileBusy : Obligations.OnlyStatusMayBeReadWhileBusy := by
  intro s a rest hsafe hbusy hin
  constructor
  · obtain ⟨dir, space, width, addr, d⟩ := a
    rintro ⟨rfl, rfl, rfl, rfl⟩
    rw [step_of_input hsafe hin]
    exact congrArg Host.Outcome.next (hostAccess_statusRead d { s with inputs := rest })
  · intro hform
    cases hop : a.resolve s.params.bufCap.toNat with
    | error f =>
      refine ⟨f, ?_⟩
      rw [step_of_input hsafe hin, handle, hostAccess_of_error (s := { s with inputs := rest }) hop]
      rfl
    | ok op =>
      have hne : op ≠ .rd .status := by
        rintro rfl
        exact hform (form_of_resolve_rd hop)
      exact ⟨.whileBusy, step_of_busy_access hsafe hbusy hin hop hne⟩

/-- Settles O47: the step looks at the recorded fault before anything else. -/
theorem hostFaultIsNeverCleared : Obligations.HostFaultIsNeverCleared := by
  intro s f hfault
  have hstep : step s = .fault (.hostProtocolViolation f) := by rw [step, hfault]
  exact ⟨hstep, fun t => by simp [hstep]⟩

end Sys2Proof.Machine
end

/-! PROOFS. The reset input, with and without a command in flight, and power-on (spec/70_reset_and_hazards.md R132,
R133; spec/20_memory.md R44, R48; spec/10_state.md R37). -/

section
namespace Sys2Proof.Machine

/-- The reset values register by register (R37). -/
theorem resetRegs_eq (s : State) :
    resetRegs s = { s with
      err := .ok, inFlight := none, len := 0, off := 0, cnt := 0, val := 0, result := 0, acc := 0, proto := 0,
      ipid := 0, srcip := 0, dstip := 0, icmpType := 0, icmpCode := 0 } := rfl

theorem resetInput_of_idle {s : State} (hidle : s.inFlight = none) : resetInput s = resetRegs s := by
  rw [resetInput, hidle]

theorem resetInput_of_busy {s : State} {w : Word} (hfly : s.inFlight = some w) :
    resetInput s = resetRegs (abandonWord w s) := by
  rw [resetInput, hfly]

/-- Settles O49: the reset values, with BUSY = 0 before and after. -/
theorem resetInputClearsRegistersKeepsBuf : Obligations.ResetInputClearsRegistersKeepsBuf := by
  rintro s rest ⟨hsafe, hidle⟩ hin
  rw [step_of_input hsafe hin, handle, resetInput_of_idle (s := { s with inputs := rest }) hidle, resetRegs_eq]
  simp only [hidle]

/-- Abandoning a command touches BUF and the count of abandoned commands only (R133). -/
theorem abandonWord_eq (w : Word) (s : State) :
    abandonWord w s = { s with buf := (abandonWord w s).buf, draws := (abandonWord w s).draws } := by
  unfold abandonWord
  split <;> rfl

/-- Copying one address leaves every byte as it was, or as the other memory has it at that address. -/
theorem lookup_copyByte (new m : Memory) (a x : Nat) :
    (copyByte new m a).lookup x = m.lookup x ∨ x = a ∧ (copyByte new m a).lookup x = new.lookup x := by
  unfold copyByte
  split
  next b hb =>
    by_cases hx : x = a
    · subst hx
      exact .inr ⟨rfl, by rw [Memory.lookup_write_same, hb]⟩
    · exact .inl (Memory.lookup_write_other m b hx)
  next => exact .inl rfl

theorem lookup_foldl_copyByte (new : Memory) (as : List Nat) (m : Memory) (x : Nat) :
    (as.foldl (copyByte new) m).lookup x = m.lookup x ∨
      x ∈ as ∧ (as.foldl (copyByte new) m).lookup x = new.lookup x := by
  induction as generalizing m with
  | nil => exact .inl rfl
  | cons a as ih =>
    obtain hkept | ⟨hmem, hnew⟩ := ih (copyByte new m a)
    · obtain hold | ⟨rfl, hnew⟩ := lookup_copyByte new m a x
      · exact .inl (hkept.trans hold)
      · exact .inr ⟨List.mem_cons_self, hkept.trans hnew⟩
    · exact .inr ⟨List.mem_cons_of_mem a hmem, hnew⟩

/-- A byte is read off its written value and the power cycle. -/
theorem readByte_congr {s t : State} {a : Nat} (hbuf : t.buf.lookup a = s.buf.lookup a)
    (hcycle : t.powerCycle = s.powerCycle) : t.readByte a = s.readByte a := by
  rw [State.readByte, State.readByte, hbuf, hcycle]

/-- Every byte after a command is abandoned: old, or listed for the command and new (R133, R44). -/
theorem readByte_abandonWord (w : Word) (s : State) (a : Nat) :
    (abandonWord w s).readByte a = s.readByte a ∨
      ∃ i u, decode w = .ok i ∧ exec i s = .next u ∧ a ∈ mayWrite i s ∧
        (abandonWord w s).readByte a = u.readByte a := by
  cases hdec : decode w with
  | error r =>
    left
    rw [abandonWord, hdec]
  | ok i =>
    obtain ⟨u, hexec, -, -, -, -, -, hcycle, -⟩ := everyCommandEnds i s
    have hafter : abandonWord w s = { s with
        buf := ((mayWrite i s).filter (Config.abandonedIsNew s.draws)).foldl (copyByte u.buf) s.buf
        draws := s.draws + 1 } := by
      simp only [abandonWord, hdec, abandonedBuf, hexec]
    rw [hafter]
    obtain hold | ⟨hmem, hnew⟩ :=
      lookup_foldl_copyByte u.buf ((mayWrite i s).filter (Config.abandonedIsNew s.draws)) s.buf a
    · exact .inl (readByte_congr hold rfl)
    · exact .inr ⟨i, u, rfl, hexec, List.mem_of_mem_filter hmem, readByte_congr hnew hcycle.symm⟩

/-- Settles O50: the command is abandoned, byte by byte as `readByte_abandonWord` says, and then every register takes
its reset value. -/
theorem resetAbandonsTheCommand : Obligations.ResetAbandonsTheCommand := by
  intro s w rest hsafe hfly hin
  have hstep : step s = .next (resetRegs (abandonWord w { s with inputs := rest })) := by
    rw [step_of_input hsafe hin, handle, resetInput_of_busy (s := { s with inputs := rest }) hfly]
  refine ⟨_, hstep, ?_, fun a => ?_⟩
  · rw [abandonWord_eq, resetRegs, hsafe]
    rfl
  · exact readByte_abandonWord w { s with inputs := rest } a

/-- Settles O51: power-on counts one power cycle on and leaves nothing written in BUF. -/
theorem powerOnLeavesBufUnspecified : Obligations.PowerOnLeavesBufUnspecified := by
  intro s rest hsafe hin
  refine ⟨_, step_of_input hsafe hin, Nat.succ_ne_self s.powerCycle, ?_, fun a => readByte_of_unwritten rfl⟩
  rw [powerOnInput, resetRegs, hsafe]
  rfl

end Sys2Proof.Machine
end
